-- ==== Sys2Proof/Word.lean ====
section
/-! DEFINITION. The words of RCFC: a byte, the 32-bit word view of a frame, the relay state vector, and the
four-byte register array (TXF, RXF, CH). 00_scope.md R14, R15; 10_state.md R21; 20_memory.md R61. -/

namespace Sys2Proof

/-- A byte: 8 bits, bit 0 least significant (R14). -/
abbrev Byte := BitVec 8

/-- The 16-bit info field of an error (R271). -/
abbrev Info := BitVec 16

/-- The one-word view `W` of a frame: first byte on the line in `W[31:24]` (R61). -/
abbrev FrameWord := BitVec 32

/-- A relay state vector: a sequence of exactly 8 booleans `v[0] .. v[7]` (R15, file 41). -/
abbrev RelayVec := Vector Bool 8

/-- Four bytes in line order: the type of TXF, RXF, CH (R21) and of a chunk of full length. -/
structure Quad where
  b0 : Byte
  b1 : Byte
  b2 : Byte
  b3 : Byte
deriving DecidableEq, Repr

/-- The bytes of a quad, first byte on the line first. -/
def Quad.toList (q : Quad) : List Byte := [q.b0, q.b1, q.b2, q.b3]

/-- A frame as RCT's data model has it: command, address, data; its checksum is derived (R90). -/
structure Frame where
  command : Byte
  address : Byte
  data    : Byte
deriving DecidableEq, Repr

end Sys2Proof
end

