-- ==== Sys2Proof/Config.lean ====
section
/-! DEFINITION. The parameters of an instance (00_scope.md R9), the line configuration they fix (10_state.md R25), and
the one free value the spec leaves (93_implementation_defined.md U9). -/

namespace Sys2Proof

/-- The line configuration LINECFG (R25, R165, R296). -/
structure LineCfg where
  baud        : Nat
  dataBits    : Nat
  parity      : Bool
  stopBits    : Nat
  flowControl : Bool
  readTimeoutMs : Nat
deriving DecidableEq, Repr

/-- The capacity of a queue: `inf`, or a power of two (R9). -/
inductive Depth where
  | inf
  | pow2 (k : Nat)
deriving DecidableEq, Repr

/-- The number of entries of a capacity, `none` for `inf` (R9). -/
def Depth.slots (d : Depth) : Option Nat :=
  match d with
  | .inf => none
  | .pow2 k => some (2 ^ k)

/-- The fourteen parameters of R9. They are constants of an instance (R311): no step writes them. `none` stands for
`inf` in RXB_DEPTH and MAX_DISCARD_RESET and for "no value" in CUR_RESET. -/
structure Params where
  /-- BAUD, the line rate, part of LINECFG (R9, R25). -/
  baud : Nat
  /-- T_READ_MS, the read timeout of one chunk read, part of LINECFG (R9, R25). -/
  tReadMs : Nat
  /-- T_PACE_MS: the wait after every exchange (R9, R184). -/
  tPaceMs : Nat
  /-- T_PULSE_MS: the hold time of PULSE (R9, R208). -/
  tPulseMs : Nat
  /-- T_POLL_MS, the bounded wait of each worker on its queue (R9). It enters no rule's result (R12; log 27). -/
  tPollMs : Nat
  /-- CARD_ID: the address byte of every frame SWITCHER sends (R9, R243). -/
  cardId : Byte
  /-- DELAYW: width in bits of a settle delay (R9, R226). -/
  delayW : Nat
  /-- IDXW, width in bits of a channel-index operand at the port (R9). The operand itself is an integer here, so
  every IDXW is covered (log 23, log 27). -/
  idxW : Nat
  /-- QDEPTH_REQ: capacity of REQQ in entries (R9, R227). -/
  depthReq : Depth
  /-- QDEPTH_RES: capacity of RESQ in entries (R9, R227). -/
  depthRes : Depth
  /-- RXB_DEPTH: capacity of the receive buffer in bytes (R9, R64). -/
  rxbDepth : Option Nat
  /-- CSUM_VERIFY_RESET (R9, R40). -/
  csumVerifyReset : Bool
  /-- MAX_DISCARD_RESET (R9, R40). -/
  maxDiscardReset : Option Nat
  /-- CUR_RESET: none, or the byte CUR holds after reset (R9, R40). -/
  curReset : Option Byte
deriving DecidableEq, Repr

/-- QDEPTH_REQ as a number of entries, `none` for `inf` (R9). -/
def Params.qdepthReq (p : Params) : Option Nat := p.depthReq.slots

/-- QDEPTH_RES as a number of entries, `none` for `inf` (R9). -/
def Params.qdepthRes (p : Params) : Option Nat := p.depthRes.slots

/-- LINECFG of an instance: 8 data bits, no parity, 1 stop bit, no flow control, and the rate and read timeout that are
parameters (R9, R25). No operation of RCFC changes it. -/
def Params.lineCfg (p : Params) : LineCfg :=
  { baud := p.baud, dataBits := 8, parity := false, stopBits := 1, flowControl := false, readTimeoutMs := p.tReadMs }

/-- FREE VALUE (U9): what the host's view of TXF or RXF shows before the register is first written, "any value", and
what raw COMMUNICATE takes of a TXF that nothing has written; the `n`-th draw of the model's counter `drawn`. It has no
body, so no claim can rest on what it is (log 7). -/
opaque Config.anyWord : Nat → FrameWord

/-- The values R9 gives. CARD_ID is OPEN in R9 without a default: 0 here (DESIGN CHOICE, unsafe; log 6). -/
def Params.defaults : Params :=
  { baud := 19200, tReadMs := 1000, tPaceMs := 100, tPulseMs := 500, tPollMs := 1000
    cardId := 0, delayW := 32, idxW := 8, depthReq := .inf, depthRes := .inf, rxbDepth := none
    csumVerifyReset := false, maxDiscardReset := none, curReset := none }

end Sys2Proof
end

