-- ==== Sys2Proof/Machine/Operands.lean ====
section
/-! DEFINITION. The operand forms and the arithmetic of RCFC: checksum, response and request codes, the packed
relay vector and its masks, and the range checks on integer operands. Files 40_codec.md and 41_relaystate.md;
30_encoding.md R97, R98, R107. -/

namespace Sys2Proof.Machine

/-- The resynchronisation threshold (R8): a chunk whose leading byte is at least this is a candidate. -/
def resyncThreshold : Byte := 0xF0

/-- The mask of the response predicate (R8). -/
def responseMask : Byte := 0xF0

/-- The lanes PULSE sets and clears, indices 5, 6 and 7 (R8, R155): `M = 0xE0`. -/
def pulseMask : Byte := 0xE0

/-- `CSUM(c, a, d) = c ^ a ^ d` (R120). -/
def csum (c a d : Byte) : Byte := c ^^^ a ^^^ d

/-- The checksum of a frame, derived from its three fields (R90, R122). -/
def frameChecksum (f : Frame) : Byte := csum f.command f.address f.data

/-- The four bytes `[c, a, d, CSUM(c, a, d)]` that ENCODE makes (R121). -/
def frameBytes (c a d : Byte) : Quad := { b0 := c, b1 := a, b2 := d, b3 := csum c a d }

/-- `DECODE` of four received bytes (R122): byte 3 is no field of the frame. -/
def decodeQuad (q : Quad) : Frame := { command := q.b0, address := q.b1, data := q.b2 }

/-- `RESPCODE(c) = 255 - c` (R125); by R107 (b) the subtraction never borrows. -/
def respCode (c : Byte) : Byte := 255 - c

/-- `REQCODE(r) = 255 - r` (R126). -/
def reqCode (r : Byte) : Byte := 255 - r

/-- `PACK(v)`, RCT's loop: from index 7 down to 0, shift left and or in the bit (R150). -/
def pack (v : RelayVec) : Byte :=
  ([7, 6, 5, 4, 3, 2, 1, 0] : List (Fin 8)).foldl (fun b i => (b <<< 1) ||| (if v[i] then 1 else 0)) 0

/-- `UNPACK(b)`: element `i` is bit `i` of the byte (R151). -/
def unpack (b : Byte) : RelayVec :=
  #v[b.getLsbD 0, b.getLsbD 1, b.getLsbD 2, b.getLsbD 3, b.getLsbD 4, b.getLsbD 5, b.getLsbD 6, b.getLsbD 7]

/-- The vector of `MASK1(i)` for an index in range: all false except element `i` (R152). -/
def oneHot (i : Nat) : RelayVec :=
  #v[i == 0, i == 1, i == 2, i == 3, i == 4, i == 5, i == 6, i == 7]

/-- `SETBITS` on the packed byte: the lanes of the mask become true, the others keep their value (R155). -/
def setBits (b m : Byte) : Byte := b ||| m

/-- `CLRBITS` on the packed byte: the lanes of the mask become false, the others keep their value (R155). -/
def clrBits (b m : Byte) : Byte := b &&& ~~~m

/-- A byte operand given as an integer is in range when it is 0 to 255 (R121, R202). -/
def byteInRange (v : Int) : Bool := decide (0 ≤ v) && decide (v ≤ 255)

/-- The byte an integer operand in range stands for. -/
def byteOfInt (v : Int) : Byte := BitVec.ofInt 8 v

/-- A channel index is in range when it is 0 to 7 (R152). -/
def indexInRange (i : Int) : Bool := decide (0 ≤ i) && decide (i ≤ 7)

/-- The low 16 bits of an integer, the info field of E_RANGE_INDEX (R271; for a negative index log 14). -/
def infoOfInt (v : Int) : Info := BitVec.ofInt 16 v

/-- A settle delay or duration fits the port: `0 <= ms < 2^DELAYW` (R226, R235, U11). -/
def delayFits (delayW : Nat) (ms : Int) : Bool := decide (0 ≤ ms) && decide (ms < 2 ^ delayW)

/-- The mask M of a batch: the or of `1 << (t - 1)` over its 1-based targets (R236, R98), each bit written as
`PACK(MASK1(t - 1))`. -/
def batchMask (targets : List Int) : Byte :=
  targets.foldl (fun m t => m ||| pack (oneHot (t - 1).toNat)) 0

/-- The first target outside 1 to 8, if there is one (R236; the order is the list's, log 15). -/
def badTarget (targets : List Int) : Option Int :=
  targets.find? (fun t => !indexInRange (t - 1))

/-- `CH[i] <- b`, for `i` in 0 to 3 (R176). -/
def putByte (q : Quad) (i : Nat) (b : Byte) : Quad :=
  match i with
  | 0 => { q with b0 := b }
  | 1 => { q with b1 := b }
  | 2 => { q with b2 := b }
  | _ => { q with b3 := b }

/-- The chunk `[CH[0], .., CH[k-1]]` (R176). -/
def chunkBytes (q : Quad) (k : Nat) : List Byte := q.toList.take k

end Sys2Proof.Machine
end

