-- ==== Sys2Proof/Syntax.lean ====
section
/-! DEFINITION. The instructions: one constructor per row of spec/opcode_table.json, in the table's order.
Frame rows (30_encoding.md R95, R96, R91) carry the bytes of the frame that their match leaves open;
port rows (R105, R112) carry the operands of the operation. -/

namespace Sys2Proof

/-- The action of a batch request (R32, R236). -/
inductive BatchAction where
  | activate
  | deactivate
  | pulse
deriving DecidableEq, Repr

/-- One constructor per row of the opcode table. In frame rows `a d x` are the address, data and checksum
bytes, and `sub` holds the command bits that the row's mask leaves open (reserved ranges, R91). Operands that
RCT range-checks are integers (D6; log 23). -/
inductive Instr where
  -- request frames, RCFC to line (R95)
  | noop (a d x : Byte)
  | setup (a d x : Byte)
  | getport (a d x : Byte)
  | setport (a d x : Byte)
  | getoption (a d x : Byte)
  | setoption (a d x : Byte)
  | setsingle (a d x : Byte)
  | delsingle (a d x : Byte)
  | toggle (a d x : Byte)
  -- response frames, line to RCFC (R96)
  | rNoop (a d x : Byte)
  | rSetup (a d x : Byte)
  | rGetport (a d x : Byte)
  | rSetport (a d x : Byte)
  | rGetoption (a d x : Byte)
  | rSetoption (a d x : Byte)
  | rSetsingle (a d x : Byte)
  | rDelsingle (a d x : Byte)
  | rToggle (a d x : Byte)
  -- reserved command bytes (R91, R101)
  | rsvdLow0909 (a d x : Byte)
  | rsvdLow0A0B (sub : BitVec 1) (a d x : Byte)
  | rsvdLow0C0F (sub : BitVec 2) (a d x : Byte)
  | rsvdMid101F (sub : BitVec 4) (a d x : Byte)
  | rsvdMid203F (sub : BitVec 5) (a d x : Byte)
  | rsvdMid407F (sub : BitVec 6) (a d x : Byte)
  | rsvdMid80BF (sub : BitVec 6) (a d x : Byte)
  | rsvdMidC0DF (sub : BitVec 5) (a d x : Byte)
  | rsvdMidE0EF (sub : BitVec 4) (a d x : Byte)
  | rsvdHighF0F3 (sub : BitVec 2) (a d x : Byte)
  | rsvdHighF4F5 (sub : BitVec 1) (a d x : Byte)
  | rsvdHighF6F6 (a d x : Byte)
  -- FrameCodec and CommandSet (file 40)
  | csum (c a d : Byte)
  | encode (c a d : Int)
  | decode (b0 b1 b2 b3 : Byte)
  | isresp (c : Byte)
  | respcode (c : Byte)
  | reqcode (r : Byte)
  | label (f : Frame)
  -- RelayState (file 41)
  | pack (v : RelayVec)
  | unpack (b : Int)
  | mask1 (index : Int)
  -- SerialTransport (file 42)
  | connect
  | communicate
  | shutdown
  -- RelayCardClient (file 43)
  | setall (card : Int) (v : RelayVec)
  | query (card : Int)
  | enable (card index : Int)
  | disable (card index : Int)
  | pulse (card : Int)
  -- queues and workers (file 44)
  | submit (target : Byte) (settle : Int)
  | batch (action : BatchAction) (targets : List Int) (duration : Option Int)
  | startSw
  | startDp
  | swIter
  | dpIter
deriving DecidableEq, Repr

end Sys2Proof
end

