-- ==== Sys2Proof/WellFormed.lean ====
section
/-! DEFINITION. Which instruction terms are well formed: the constraints the spec puts on operands beside the
row's match and mask (30_encoding.md R95; 40_codec.md R125, R126; 44_pipeline.md R235, R236). -/

namespace Sys2Proof

/-- A request frame carries the checksum of its first three bytes (R95, R94). -/
def requestChecksumOk (c a d x : Byte) : Bool := x == Machine.csum c a d

/-- The operand of RESPCODE is a request code 0 to 8 (R125). -/
def isRequestCode (c : Byte) : Bool := decide (c.toNat ≤ 8)

/-- The operand of REQCODE is a byte for which ISRESP holds (R126, R124). -/
def isResponseByte (r : Byte) : Bool := decide (16 ≤ r.toNat)

/-- A duration that is present is not negative (R32). -/
def durationOk (d : Option Int) : Bool :=
  match d with
  | none => true
  | some ms => decide (0 ≤ ms)

/-- Well-formed instructions. Response and reserved frames are well formed with any bytes: a received checksum
is not part of the format (R94). Range errors are not ill-formedness: the operation raises them (D6). -/
def Instr.wellFormed (i : Instr) : Bool :=
  match i with
  | .noop a d x => requestChecksumOk 0 a d x
  | .setup a d x => requestChecksumOk 1 a d x
  | .getport a d x => requestChecksumOk 2 a d x
  | .setport a d x => requestChecksumOk 3 a d x
  | .getoption a d x => requestChecksumOk 4 a d x
  | .setoption a d x => requestChecksumOk 5 a d x
  | .setsingle a d x => requestChecksumOk 6 a d x
  | .delsingle a d x => requestChecksumOk 7 a d x
  | .toggle a d x => requestChecksumOk 8 a d x
  | .rNoop _ _ _ => true
  | .rSetup _ _ _ => true
  | .rGetport _ _ _ => true
  | .rSetport _ _ _ => true
  | .rGetoption _ _ _ => true
  | .rSetoption _ _ _ => true
  | .rSetsingle _ _ _ => true
  | .rDelsingle _ _ _ => true
  | .rToggle _ _ _ => true
  | .rsvdLow0909 _ _ _ => true
  | .rsvdLow0A0B _ _ _ _ => true
  | .rsvdLow0C0F _ _ _ _ => true
  | .rsvdMid101F _ _ _ _ => true
  | .rsvdMid203F _ _ _ _ => true
  | .rsvdMid407F _ _ _ _ => true
  | .rsvdMid80BF _ _ _ _ => true
  | .rsvdMidC0DF _ _ _ _ => true
  | .rsvdMidE0EF _ _ _ _ => true
  | .rsvdHighF0F3 _ _ _ _ => true
  | .rsvdHighF4F5 _ _ _ _ => true
  | .rsvdHighF6F6 _ _ _ => true
  | .csum _ _ _ => true
  | .encode _ _ _ => true
  | .decode _ _ _ _ => true
  | .isresp _ => true
  | .respcode c => isRequestCode c
  | .reqcode r => isResponseByte r
  | .label _ => true
  | .pack _ => true
  | .unpack _ => true
  | .mask1 _ => true
  | .connect => true
  | .communicate => true
  | .shutdown => true
  | .setall _ _ => true
  | .query _ => true
  | .enable _ _ => true
  | .disable _ _ => true
  | .pulse _ => true
  | .submit _ settle => decide (0 ≤ settle)
  | .batch _ _ duration => durationOk duration
  | .startSw => true
  | .startDp => true
  | .swIter => true
  | .dpIter => true

end Sys2Proof
end

