-- ==== Sys2Proof/Decode.lean ====
section
/-! DEFINITION. Decoding four bytes into a frame instruction, and encoding one back. 30_encoding.md R90, R91,
R95, R96, R99, R103; 20_memory.md R61. The decoder is total: four bytes always decode (R99); any other number
of bytes is rejected by name (R103). -/

namespace Sys2Proof

/-- Why bytes do not decode: a decoder always takes exactly 4 bytes (R103). `noRow` is never answered
(the rows of the table match every command byte exactly once, R112). -/
inductive DecodeError where
  | length (n : Nat)
  | noRow (command : Byte)
deriving DecidableEq, Repr

/-- One frame row of the opcode table: `match` and `mask` on the command byte `W[31:24]`, and the instruction it
stands for, given command, address, data and checksum byte. -/
structure FrameRow where
  mask    : Byte
  pattern : Byte
  make    : Byte → Byte → Byte → Byte → Instr

/-- The nine request rows (R95). -/
def requestRows : List FrameRow :=
  [ ⟨0xFF, 0x00, fun _ a d x => .noop a d x⟩,
    ⟨0xFF, 0x01, fun _ a d x => .setup a d x⟩,
    ⟨0xFF, 0x02, fun _ a d x => .getport a d x⟩,
    ⟨0xFF, 0x03, fun _ a d x => .setport a d x⟩,
    ⟨0xFF, 0x04, fun _ a d x => .getoption a d x⟩,
    ⟨0xFF, 0x05, fun _ a d x => .setoption a d x⟩,
    ⟨0xFF, 0x06, fun _ a d x => .setsingle a d x⟩,
    ⟨0xFF, 0x07, fun _ a d x => .delsingle a d x⟩,
    ⟨0xFF, 0x08, fun _ a d x => .toggle a d x⟩ ]

/-- The nine response rows (R96). -/
def responseRows : List FrameRow :=
  [ ⟨0xFF, 0xFF, fun _ a d x => .rNoop a d x⟩,
    ⟨0xFF, 0xFE, fun _ a d x => .rSetup a d x⟩,
    ⟨0xFF, 0xFD, fun _ a d x => .rGetport a d x⟩,
    ⟨0xFF, 0xFC, fun _ a d x => .rSetport a d x⟩,
    ⟨0xFF, 0xFB, fun _ a d x => .rGetoption a d x⟩,
    ⟨0xFF, 0xFA, fun _ a d x => .rSetoption a d x⟩,
    ⟨0xFF, 0xF9, fun _ a d x => .rSetsingle a d x⟩,
    ⟨0xFF, 0xF8, fun _ a d x => .rDelsingle a d x⟩,
    ⟨0xFF, 0xF7, fun _ a d x => .rToggle a d x⟩ ]

/-- The twelve rows of the reserved ranges (R91, R101). -/
def reservedRows : List FrameRow :=
  [ ⟨0xFF, 0x09, fun _ a d x => .rsvdLow0909 a d x⟩,
    ⟨0xFE, 0x0A, fun c a d x => .rsvdLow0A0B (c.setWidth 1) a d x⟩,
    ⟨0xFC, 0x0C, fun c a d x => .rsvdLow0C0F (c.setWidth 2) a d x⟩,
    ⟨0xF0, 0x10, fun c a d x => .rsvdMid101F (c.setWidth 4) a d x⟩,
    ⟨0xE0, 0x20, fun c a d x => .rsvdMid203F (c.setWidth 5) a d x⟩,
    ⟨0xC0, 0x40, fun c a d x => .rsvdMid407F (c.setWidth 6) a d x⟩,
    ⟨0xC0, 0x80, fun c a d x => .rsvdMid80BF (c.setWidth 6) a d x⟩,
    ⟨0xE0, 0xC0, fun c a d x => .rsvdMidC0DF (c.setWidth 5) a d x⟩,
    ⟨0xF0, 0xE0, fun c a d x => .rsvdMidE0EF (c.setWidth 4) a d x⟩,
    ⟨0xFC, 0xF0, fun c a d x => .rsvdHighF0F3 (c.setWidth 2) a d x⟩,
    ⟨0xFE, 0xF4, fun c a d x => .rsvdHighF4F5 (c.setWidth 1) a d x⟩,
    ⟨0xFF, 0xF6, fun _ a d x => .rsvdHighF6F6 a d x⟩ ]

/-- The 30 frame rows, in the table's order. -/
def frameRows : List FrameRow := requestRows ++ responseRows ++ reservedRows

/-- A row matches a command byte when the bits its mask selects are its pattern's. -/
def FrameRow.hits (r : FrameRow) (command : Byte) : Bool := (command &&& r.mask) == r.pattern

/-- Decode four bytes in line order (R99). -/
def decodeFrame (b0 b1 b2 b3 : Byte) : Except DecodeError Instr :=
  match frameRows.find? (fun r => r.hits b0) with
  | some r => .ok (r.make b0 b1 b2 b3)
  | none => .error (.noRow b0)

/-- Decode a byte sequence: exactly four bytes, first byte on the line first (R61, R103). -/
def decode (bs : List Byte) : Except DecodeError Instr :=
  match bs with
  | [b0, b1, b2, b3] => decodeFrame b0 b1 b2 b3
  | _ => .error (.length bs.length)

/-- The four bytes of a frame instruction, first byte on the line first (R61, R95, R96, R91); `none` for the port
operations, which have no encoding (R112). -/
def encode (i : Instr) : Option (List Byte) :=
  match i with
  | .noop a d x => some [0x00, a, d, x]
  | .setup a d x => some [0x01, a, d, x]
  | .getport a d x => some [0x02, a, d, x]
  | .setport a d x => some [0x03, a, d, x]
  | .getoption a d x => some [0x04, a, d, x]
  | .setoption a d x => some [0x05, a, d, x]
  | .setsingle a d x => some [0x06, a, d, x]
  | .delsingle a d x => some [0x07, a, d, x]
  | .toggle a d x => some [0x08, a, d, x]
  | .rNoop a d x => some [0xFF, a, d, x]
  | .rSetup a d x => some [0xFE, a, d, x]
  | .rGetport a d x => some [0xFD, a, d, x]
  | .rSetport a d x => some [0xFC, a, d, x]
  | .rGetoption a d x => some [0xFB, a, d, x]
  | .rSetoption a d x => some [0xFA, a, d, x]
  | .rSetsingle a d x => some [0xF9, a, d, x]
  | .rDelsingle a d x => some [0xF8, a, d, x]
  | .rToggle a d x => some [0xF7, a, d, x]
  | .rsvdLow0909 a d x => some [0x09, a, d, x]
  | .rsvdLow0A0B sub a d x => some [0x05#7 ++ sub, a, d, x]
  | .rsvdLow0C0F sub a d x => some [0x03#6 ++ sub, a, d, x]
  | .rsvdMid101F sub a d x => some [0x1#4 ++ sub, a, d, x]
  | .rsvdMid203F sub a d x => some [0x1#3 ++ sub, a, d, x]
  | .rsvdMid407F sub a d x => some [0x1#2 ++ sub, a, d, x]
  | .rsvdMid80BF sub a d x => some [0x2#2 ++ sub, a, d, x]
  | .rsvdMidC0DF sub a d x => some [0x6#3 ++ sub, a, d, x]
  | .rsvdMidE0EF sub a d x => some [0xE#4 ++ sub, a, d, x]
  | .rsvdHighF0F3 sub a d x => some [0x3C#6 ++ sub, a, d, x]
  | .rsvdHighF4F5 sub a d x => some [0x7A#7 ++ sub, a, d, x]
  | .rsvdHighF6F6 a d x => some [0xF6, a, d, x]
  | .csum _ _ _ => none
  | .encode _ _ _ => none
  | .decode _ _ _ _ => none
  | .isresp _ => none
  | .respcode _ => none
  | .reqcode _ => none
  | .label _ => none
  | .pack _ => none
  | .unpack _ => none
  | .mask1 _ => none
  | .connect => none
  | .communicate => none
  | .shutdown => none
  | .setall _ _ => none
  | .query _ => none
  | .enable _ _ => none
  | .disable _ _ => none
  | .pulse _ => none
  | .submit _ _ => none
  | .batch _ _ _ => none
  | .startSw => none
  | .startDp => none
  | .swIter => none
  | .dpIter => none

/-- The bytes of the word view, first byte on the line first: `W = {b0, b1, b2, b3}` (R61). -/
def wordBytes (w : FrameWord) : List Byte :=
  [w.extractLsb' 24 8, w.extractLsb' 16 8, w.extractLsb' 8 8, w.extractLsb' 0 8]

/-- The frame word of a table row given as a number of `nbits` bits, bit 0 least significant: the bits above
`nbits` are 0. -/
def tableWord (nbits w : Nat) : FrameWord := BitVec.ofNat 32 (w % 2 ^ nbits)

/-- The instruction the decoder reads from the word `w` of a frame row. A row without bits (a port operation,
R112) has no word to decode. -/
def decodeTableWord (nbits w : Nat) : Option Instr :=
  if nbits = 0 ∨ 32 < nbits then none
  else
    match decode (wordBytes (tableWord nbits w)) with
    | .ok i => some i
    | .error _ => none

end Sys2Proof
end

