-- ==== Sys2Proof/Machine/State.lean ====
section
/-! DEFINITION. The state of RCFC as plain data, everything 10_state.md gives it (R20 to R27), the model's own fields
beside it (INVENTORY.md, State), the two kinds of stop, and the state after reset (R40). -/

namespace Sys2Proof.Machine

/-! ## Errors (60_exceptions.md R271) -/

/-- The nine causes of R271. -/
inductive Cause where
  | connClosed
  | connOpen
  | connTrunc
  | proto
  | rangeIndex
  | rangeByte
  | label
  | csum
  | desync
deriving DecidableEq, Repr

/-- An error as it is reported and logged: a cause and its 16-bit info (R271). -/
structure Error where
  cause : Cause
  info  : Info
deriving DecidableEq, Repr

/-! ## Parts of the state -/

/-- XS: where an exchange is (R23). -/
inductive XState where
  | idle
  | flush
  | write
  | read
  | pace
deriving DecidableEq, Repr

/-- PS: whether a client operation is in progress (R23). -/
inductive PState where
  | idle
  | busy
deriving DecidableEq, Repr

/-- SS: where SWITCHER is in its loop (R23). -/
inductive SState where
  | stopped
  | top
  | wait
  | exch
  | push
  | settle
  | exited
deriving DecidableEq, Repr

/-- DS: where DISPLAY is in its loop (R23). -/
inductive DState where
  | stopped
  | top
  | wait
  | exited
deriving DecidableEq, Repr

/-- XRES: the verdict of the exchange in progress (R21). -/
inductive Verdict where
  | none
  | ok
  | err (e : Error)
deriving DecidableEq, Repr

/-- A PendingRequest: packed target state and settle delay in ms (R226). The delay is an integer of DELAYW bits
that is only carried (R107 (h)). -/
structure PendingRequest where
  target : Byte
  settle : Nat
deriving DecidableEq, Repr

/-- The abstract state of a FIFO: entries oldest first, how many the consumer sees, how many pops the producer has
not seen (R27, R228). -/
structure Fifo (α : Type) where
  items : List α
  vis   : Nat
  freed : Nat
deriving DecidableEq, Repr

/-- An entry of one of the two queues, as an event names it (R13). -/
inductive QueueEntry where
  | reqq (r : PendingRequest)
  | resq (s : Byte)
deriving DecidableEq, Repr

/-- The two workers (R19). -/
inductive Worker where
  | sw
  | dp
deriving DecidableEq, Repr

/-- The three waits that are events (R12, R292). -/
inductive WaitKind where
  | pace
  | pulseHold
  | settle
deriving DecidableEq, Repr

/-- The events of the history EV (R13). -/
inductive Event where
  | tx (b0 b1 b2 b3 : Byte)
  | rxTake (b : Byte)
  | chunkDone (bs : List Byte)
  | discard (bs : List Byte)
  | accept (b0 b1 b2 b3 : Byte)
  | flush
  | wait (kind : WaitKind) (ms : Nat)
  | push (e : QueueEntry)
  | pop (e : QueueEntry)
  | notify (s : Byte)
  | err (e : Error)
  | opened
  | closed
  | exited (w : Worker)
deriving DecidableEq, Repr

/-- The nine names of CommandCode (R95). -/
inductive CommandName where
  | noop
  | setup
  | getport
  | setport
  | getoption
  | setoption
  | setsingle
  | delsingle
  | toggle
deriving DecidableEq, Repr

/-- The fields of the STATUS view (R25). -/
structure StatusView where
  isOpen : Bool
  xs     : XState
  ps     : PState
  ss     : SState
  ds     : DState
  doneSw : Bool
  doneDp : Bool
  cn     : Nat
  disc   : Nat
  curv   : Bool
deriving DecidableEq, Repr

/-- The registers of R25 that HOST can read at the host control port. -/
inductive ControlReg where
  | csumVerify
  | maxDiscard
  | cardId
  | lineCfg
  | status
  | txf
  | rxf
deriving DecidableEq, Repr

/-- The result an operation completes with (R30, R31): none, or what the row of the opcode table says. -/
inductive PortValue where
  | unit
  | byte (b : Byte)
  | bool (b : Bool)
  | bytes (q : Quad)
  | frame (f : Frame)
  | label (n : CommandName)
  | vec (v : RelayVec)
  /-- MAX_DISCARD as HOST reads it, `none` for inf (R25). -/
  | limit (m : Option Nat)
  /-- LINECFG as HOST reads it (R25). -/
  | lineCfg (c : LineCfg)
  /-- STATUS as HOST reads it (R25). -/
  | status (v : StatusView)
deriving DecidableEq, Repr

/-- A port's last completion (R30): one request, then one completion with a result or an error; `busy` while the
operation is in progress, `held` while a push waits for a free slot (R229). Log 10. -/
inductive PortState where
  | idle
  | busy
  | held
  | ok (v : PortValue)
  | err (e : Error)
deriving DecidableEq, Repr

/-- Which operation owns the exchange in progress and what comes after it (implied by R200, R208; log 11).
`raw` is COMMUNICATE asked at the direct port. PULSE is six of them: its three exchanges, and between them the set
step, the hold and the clear step, which run in `X_IDLE`. -/
inductive ClientOp where
  | none
  | raw
  | setall
  | query
  | enable
  | disable
  | pulseQuery (card : Byte)
  | pulseSet (card : Byte)
  | pulseOn (card : Byte)
  | pulseHold (card : Byte)
  | pulseClear (card : Byte)
  | pulseOff (card : Byte)
deriving DecidableEq, Repr

/-- A request of HOST at the front-end port that may be held (R229, R235, R236). -/
inductive FeRequest where
  | submit (r : PendingRequest)
  | batch (action : BatchAction) (targets : List Int) (duration : Nat)
deriving DecidableEq, Repr

/-- A request at the host control port that takes an exchange (R31, R290). -/
inductive ClientRequest where
  | communicate
  | setall (card : Int) (v : RelayVec)
  | query (card : Int)
  | enable (card index : Int)
  | disable (card index : Int)
  | pulse (card : Int)
deriving DecidableEq, Repr

/-- What LINE and TIMER do next for a reader that waits inside a whole operation (R176): a byte arrives, or the
read times out. Log 3. -/
inductive LineAct where
  | arrive (b : Byte)
  | silence
deriving DecidableEq, Repr

/-- One atomic step of one agent (R10), other than a host operation asked by name. -/
inductive AgentStep where
  /-- HOST asks for an operation that takes an exchange; its first step only (R172, R200). -/
  | issue (r : ClientRequest)
  /-- HOST, the owner of the exchange, takes the next step of its operation (R173 to R184, R208). -/
  | own
  /-- SWITCHER takes its next step (R240 to R247). -/
  | switcher
  /-- DISPLAY takes its next step (R249 to R251). -/
  | display
  /-- HOST tries its oldest held push again (R229). -/
  | frontEnd
  /-- LINE delivers a byte (R64). -/
  | arrive (b : Byte)
  /-- TIMER ends a chunk read (R176). -/
  | readTimeout
  /-- TIMER ends SWITCHER's queue wait (R241). -/
  | pollSw
  /-- TIMER ends DISPLAY's queue wait (R250). -/
  | pollDp
  /-- SYNC: `SyncW(REQQ)` drawing n (R231). -/
  | syncReqW (n : Nat)
  /-- SYNC: `SyncR(REQQ)` drawing m (R231). -/
  | syncReqR (m : Nat)
  /-- SYNC: `SyncW(RESQ)` drawing n (R231). -/
  | syncResW (n : Nat)
  /-- SYNC: `SyncR(RESQ)` drawing m (R231). -/
  | syncResR (m : Nat)
  /-- SYNC: a worker domain samples INTR (R284). -/
  | sampleIntr (w : Worker)
  /-- HOST drives the level INTR (R284). -/
  | driveIntr (level : Bool)
  /-- The platform drives the input `line_open_ok` (R30). -/
  | driveLineOk (level : Bool)
  /-- HOST writes CSUM_VERIFY (R25). -/
  | writeCsumVerify (v : Bool)
  /-- HOST writes MAX_DISCARD (R25). -/
  | writeMaxDiscard (v : Option Nat)
  /-- HOST reads a register of the host control port (R25, R290). -/
  | readReg (r : ControlReg)
  /-- The reset input is pulsed (R310). -/
  | reset
deriving DecidableEq, Repr

/-- One entry of the schedule: a host operation selected by name (R112), the four bytes of a frame offered as a
frame instruction, or an atomic step of an agent. -/
inductive Action where
  | op (i : Instr)
  | frame (bs : List Byte)
  | agent (a : AgentStep)
deriving DecidableEq, Repr

/-! ## Stops -/

/-- Why the machine stops with a fault. RCFC itself never stops: its errors are reported and it goes on (R281). -/
inductive Fault where
  /-- Raised by `step` when the bytes offered as a frame are not four bytes long: "A decoder always takes 4
  bytes", and fewer "is never decoded" (R103). Safe: no run of RCFC contains it. -/
  | frameLength (n : Nat)
deriving DecidableEq, Repr

/-- Why a request has no meaning (R16 "refuse"). Each is safe: a claim says nothing of a run that contains it. -/
inductive Refusal where
  /-- An instruction with no meaning yet; no arm of `exec` answers it now. Safe. -/
  | notModelled (mnemonic : String)
  /-- HOST uses the control port while SWITCHER holds the transport (R290, R187, U8). Safe. -/
  | notHolder
  /-- HOST uses the control port while an exchange or a client operation is in progress, or reads or writes
  CSUM_VERIFY or MAX_DISCARD during an exchange (R166, R172, R187, R200, R239, R25). Safe. -/
  | busy
  /-- CONNECT while the transport is open (R168, U10). Safe. -/
  | alreadyOpen
  /-- COMMUNICATE with a request command byte above 8 (R100, R172, U4). Safe. -/
  | requestCode
  /-- A settle delay or duration that does not fit DELAYW bits, or a negative one (R235, U11). Safe. -/
  | delayRange
  /-- BATCH while CURV = 0 (R236, U12). Safe. -/
  | noDisplayedState
  /-- START_SW or START_DP in another state than stopped (R239, U14). Safe. -/
  | notStopped
  /-- A frame byte no row of the table matches; never answered, since the rows match every byte (R112). Safe. -/
  | undecodable
deriving DecidableEq, Repr

/-! ## The state -/

/-- The state of RCFC. The first part is what R20 to R27 and R13 give it; the second part is the model's own. -/
structure State where
  /-- TXF, the request frame being sent (R21). -/
  txf : Quad
  /-- RXF, the last accepted response chunk (R21). -/
  rxf : Quad
  /-- CH, the chunk being assembled (R21). -/
  ch : Quad
  /-- CN, the number of valid bytes in CH (R21). -/
  cn : Nat
  /-- DISC, chunks discarded in the current exchange (R21). -/
  disc : Nat
  /-- XRES, the verdict of the exchange in progress (R21). -/
  xres : Verdict
  /-- LREQ, the request SWITCHER dequeued (R21). -/
  lreq : PendingRequest
  /-- LRES, the confirmed state of SWITCHER's last successful exchange, packed (R21). -/
  lres : Byte
  /-- PV, the working vector of PULSE, packed (R21). -/
  pv : Byte
  /-- CUR, the current state, packed (R21). -/
  cur : Byte
  /-- RXB, bytes received and not yet read, oldest first (R22). -/
  rxb : List Byte
  /-- TXB, bytes written and not yet on the line (R22). -/
  txb : List Byte
  /-- XS (R23). -/
  xs : XState
  /-- PS (R23). -/
  ps : PState
  /-- SS (R23). -/
  ss : SState
  /-- DS (R23). -/
  ds : DState
  /-- OPEN (R24). -/
  isOpen : Bool
  /-- INTR, the level HOST drives (R24, R284). -/
  intr : Bool
  /-- DONE_SW (R24). -/
  doneSw : Bool
  /-- DONE_DP (R24). -/
  doneDp : Bool
  /-- CURV, CUR holds a value (R24). -/
  curv : Bool
  /-- CSUM_VERIFY (R25). -/
  csumVerify : Bool
  /-- MAX_DISCARD, `none` for inf (R25). -/
  maxDiscard : Option Nat
  /-- ERRLOG, oldest record first (R26). -/
  errlog : List Error
  /-- REQQ (R27). -/
  reqq : Fifo PendingRequest
  /-- RESQ (R27). -/
  resq : Fifo Byte
  /-- EV, the event history, oldest first (R13). -/
  ev : List Event
  /-- MODEL: the parameters of the instance (R9), constants (log 6). -/
  params : Params
  /-- MODEL: the operation that owns the exchange in progress (log 11). -/
  cop : ClientOp
  /-- MODEL: INTR as SWITCHER's domain last sampled it (R284, log 9). -/
  intrSw : Bool
  /-- MODEL: INTR as DISPLAY's domain last sampled it (R284, log 9). -/
  intrDp : Bool
  /-- MODEL: the input `line_open_ok` (R30, log 8). -/
  lineOpenOk : Bool
  /-- MODEL: the host control port's last completion (R31, log 10). -/
  hostPort : PortState
  /-- MODEL: the last result of the combinational CODEC and RSTATE operations (log 10). -/
  codecPort : PortState
  /-- MODEL: the front-end port's last completion (R32, log 10). -/
  fePort : PortState
  /-- MODEL: the last answer of a control-register access (R25, R30, log 31). -/
  regPort : PortState
  /-- MODEL: TXF has been written since reset, by ENCODE or by the exchange that sent it (R189); while it has not, TXF
  holds no value and shows a free one (R29, log 7). -/
  txfWritten : Bool
  /-- MODEL: RXF has been written since reset; while it has not, RXF holds no value (R29, log 7). -/
  rxfWritten : Bool
  /-- MODEL: how many free values have been drawn for unwritten registers (U9, log 7). -/
  drawn : Nat
  /-- MODEL: held pushes of HOST, oldest first (R229, log 16). -/
  feWait : List FeRequest
  /-- MODEL: the schedule, next entry first (R10, log 1). -/
  agenda : List Action
  /-- MODEL: what LINE and TIMER do next for a reader that waits in a whole operation (log 3). -/
  lineIn : List LineAct
deriving DecidableEq, Repr

/-- A register array that reset leaves unwritten: R40 gives it no value; 0 is the model's (DESIGN CHOICE, log 7). No
meaning reads it: the views of TXF and RXF answer a free value and raw COMMUNICATE is refused (R29). -/
def unwrittenQuad : Quad := { b0 := 0, b1 := 0, b2 := 0, b3 := 0 }

/-- An empty FIFO (R40). -/
def Fifo.empty {α : Type} : Fifo α := { items := [], vis := 0, freed := 0 }

/-- The state after reset of an instance with parameters `p` (R40). -/
def State.resetWith (p : Params) : State :=
  { txf := unwrittenQuad, rxf := unwrittenQuad, ch := unwrittenQuad
    cn := 0, disc := 0, xres := .none
    lreq := { target := 0, settle := 0 }, lres := 0, pv := 0
    cur := p.curReset.getD 0
    rxb := [], txb := []
    xs := .idle, ps := .idle, ss := .stopped, ds := .stopped
    isOpen := false, intr := false, doneSw := false, doneDp := false
    curv := p.curReset.isSome
    csumVerify := p.csumVerifyReset, maxDiscard := p.maxDiscardReset
    errlog := [], reqq := Fifo.empty, resq := Fifo.empty, ev := []
    params := p
    cop := .none, intrSw := false, intrDp := false, lineOpenOk := false
    hostPort := .idle, codecPort := .idle, fePort := .idle, regPort := .idle
    txfWritten := false, rxfWritten := false, drawn := 0
    feWait := [], agenda := [], lineIn := [] }

/-- The machine right after reset, with the parameter values of R9 (R40). -/
def State.reset : State := State.resetWith Params.defaults

end Sys2Proof.Machine
end

