-- ==== Sys2Proof/Machine/Flags.lean ====
section
/-! DEFINITION. Flags and predicates. RCFC has no condition codes (10_state.md R24): its predicates are pure
functions of a byte, and its flags change only where the operations of Ops.lean write them. Here: the
predicates, the error codes (60_exceptions.md R271), and the read-only STATUS view (10_state.md R25). -/

namespace Sys2Proof.Machine

/-- `ISRESP(c) = ((c & 0xF0) != 0)` (R124). -/
def isResp (c : Byte) : Bool := (c &&& responseMask) != 0

/-- The candidate test: `c >= 0xF0`, unsigned (R178). -/
def isCandidate (c : Byte) : Bool := decide (resyncThreshold.toNat ≤ c.toNat)

/-- The logical command of a frame: `REQCODE(command)` if `ISRESP(command)`, else `command` (R126). -/
def logicalCommand (c : Byte) : Byte := if isResp c then reqCode c else c

/-- The label of a request code 0 to 8, in the order of the integers (R95, R127). -/
def labelOf (k : Byte) : Option CommandName :=
  ([.noop, .setup, .getport, .setport, .getoption, .setoption, .setsingle, .delsingle, .toggle] :
    List CommandName)[k.toNat]?

/-- The text of a label (R104, R127). -/
def labelText (n : CommandName) : String :=
  match n with
  | .noop => "NOOP"
  | .setup => "SETUP"
  | .getport => "GETPORT"
  | .setport => "SETPORT"
  | .getoption => "GETOPTION"
  | .setoption => "SETOPTION"
  | .setsingle => "SETSINGLE"
  | .delsingle => "DELSINGLE"
  | .toggle => "TOGGLE"

/-- The received checksum byte is not the XOR of the first three (R182). -/
def checksumBad (q : Quad) : Bool := q.b3 != csum q.b0 q.b1 q.b2

/-- The 4-bit code of a cause (R271). -/
def causeCode (c : Cause) : BitVec 4 :=
  match c with
  | .connClosed => 1
  | .connOpen => 2
  | .connTrunc => 3
  | .proto => 4
  | .rangeIndex => 5
  | .rangeByte => 6
  | .label => 7
  | .csum => 8
  | .desync => 9

/-- The code a port shows: 0 when there is no error (R271). -/
def verdictCode (v : Verdict) : BitVec 4 :=
  match v with
  | .none => 0
  | .ok => 0
  | .err e => causeCode e.cause

/-- E_CONN_CLOSED, info 0 (R271). -/
def errConnClosed : Error := { cause := .connClosed, info := 0 }

/-- E_CONN_OPEN, info 0 (R271). -/
def errConnOpen : Error := { cause := .connOpen, info := 0 }

/-- E_CONN_TRUNC: the number of bytes in the final chunk (R179, R271). -/
def errConnTrunc (k : Nat) : Error := { cause := .connTrunc, info := BitVec.ofNat 16 k }

/-- E_PROTO: `{expected, got}`, expected in the upper byte (R201, R271). -/
def errProto (expected got : Byte) : Error := { cause := .proto, info := expected ++ got }

/-- E_RANGE_INDEX: the index, low 16 bits (R152, R271). -/
def errRangeIndex (i : Int) : Error := { cause := .rangeIndex, info := infoOfInt i }

/-- E_RANGE_BYTE: which operand, 0 command, 1 address, 2 data (R121, R271). -/
def errRangeByte (which : Info) : Error := { cause := .rangeByte, info := which }

/-- E_LABEL: the logical command (R127, R271). -/
def errLabel (k : Byte) : Error := { cause := .label, info := k.setWidth 16 }

/-- E_CSUM: `{expected, got}` of the checksum byte of the candidate (R182, R271). -/
def errCsum (q : Quad) : Error := { cause := .csum, info := csum q.b0 q.b1 q.b2 ++ q.b3 }

/-- E_DESYNC: MAX_DISCARD, low 16 bits (R180, R271). -/
def errDesync (n : Nat) : Error := { cause := .desync, info := BitVec.ofNat 16 n }

/-- STATUS: a read-only view of state; reading it has no side effect, so it is a function and no step (R25, R67). -/
def statusView (s : State) : StatusView :=
  { isOpen := s.isOpen, xs := s.xs, ps := s.ps, ss := s.ss, ds := s.ds
    doneSw := s.doneSw, doneDp := s.doneDp, cn := s.cn, disc := s.disc, curv := s.curv }

/-- The four bytes of the free value of draw `n`, what an unwritten register shows (U9, log 7). -/
def anyQuad (n : Nat) : Quad :=
  let w := Config.anyWord n
  { b0 := w.extractLsb' 24 8, b1 := w.extractLsb' 16 8, b2 := w.extractLsb' 8 8, b3 := w.extractLsb' 0 8 }

/-- The view of a register array: the last value written, and before the first write any value (U9, log 7). -/
def quadView (written : Bool) (q : Quad) (n : Nat) : Quad := if written then q else anyQuad n

/-- What HOST reads of a register of the control port; a pure function, since reading has no side effect (R25, R67).
TXF and RXF before their first write: U9, log 7. -/
def regValue (r : ControlReg) (s : State) : PortValue :=
  match r with
  | .csumVerify => .bool s.csumVerify
  | .maxDiscard => .limit s.maxDiscard
  | .cardId => .byte s.params.cardId
  | .lineCfg => .lineCfg s.params.lineCfg
  | .status => .status (statusView s)
  | .txf => .bytes (quadView s.txfWritten s.txf s.drawn)
  | .rxf => .bytes (quadView s.rxfWritten s.rxf s.drawn)

/-- Reading the register draws a free value: it is TXF or RXF, and nothing has written it (U9, log 7). -/
def drawsValue (r : ControlReg) (s : State) : Bool :=
  match r with
  | .csumVerify => false
  | .maxDiscard => false
  | .cardId => false
  | .lineCfg => false
  | .status => false
  | .txf => !s.txfWritten
  | .rxf => !s.rxfWritten

/-- The snapshot of CUR: one whole value, `none` when CUR holds none (R33, R236). -/
def curSnapshot (s : State) : Option Byte := if s.curv then some s.cur else none

/-- HOST holds the transport while SWITCHER is stopped or has exited (R290). -/
def hostHolds (s : State) : Bool := s.ss == .stopped || s.ss == .exited

/-- No exchange and no client operation is in progress (R200, R172). -/
def transportIdle (s : State) : Bool := s.xs == .idle && s.ps == .idle

end Sys2Proof.Machine
end

