-- ==== Sys2Proof/Machine/Ops.lean ====
section
/-! DEFINITION. The named operations over registers, line buffers, FIFOs and ports: 20_memory.md R62 to R66,
44_pipeline.md R228 to R231, 60_exceptions.md R280, R281. Taking an error is `raise`, one shared operation. There
is no return from an error to model: "There is no return instruction and nothing to restore" (R281). -/

namespace Sys2Proof.Machine

/-- `emit e`: append an event to EV (R16). -/
def emit (e : Event) (s : State) : State := { s with ev := s.ev ++ [e] }

/-! ## The register arrays that reset leaves unwritten (R29) -/

/-- ENCODE's write of TXF (R121): from then on TXF holds a value (R29, log 7). -/
def writeTxf (q : Quad) (s : State) : State := { s with txf := q, txfWritten := true }

/-- The accept step's write of RXF (R181): from then on RXF holds a value (R29, log 7). -/
def writeRxf (q : Quad) (s : State) : State := { s with rxf := q, rxfWritten := true }

/-! ## Errors and completions -/

/-- Who asked for the operation in progress: where its completion goes (R280, R30). -/
inductive Asker where
  | control
  | codec
  | frontEnd
  | switcher
deriving DecidableEq, Repr

/-- Taking an error (R280). A direct request completes with the error at its port; an error of SWITCHER's client
call is appended to ERRLOG, and the loop continues at its top (R244). Nothing is saved, no mode changes. -/
def raise (who : Asker) (e : Error) (s : State) : State :=
  match who with
  | .control => { s with hostPort := .err e }
  | .codec => { s with codecPort := .err e }
  | .frontEnd => { s with fePort := .err e }
  | .switcher => emit (.err e) { s with errlog := s.errlog ++ [e], ss := .top }

/-- An operation completes with a result: at the port of who asked, or, for SWITCHER's SETALL, in LRES with the
push step next (R30, R243). -/
def complete (who : Asker) (v : PortValue) (s : State) : State :=
  match who with
  | .control => { s with hostPort := .ok v }
  | .codec => { s with codecPort := .ok v }
  | .frontEnd => { s with fePort := .ok v }
  | .switcher =>
    match v with
    | .vec w => { s with lres := pack w, ss := .push }
    | _ => { s with ss := .push }

/-- A combinational operation completes with a result (file 40, file 41). -/
def result (v : PortValue) (s : State) : Host.Outcome State Fault Refusal := .next (complete .codec v s)

/-- A combinational operation ends with an error, returned to who invoked it (R277, R280 (a)). -/
def failure (e : Error) (s : State) : Host.Outcome State Fault Refusal := .next (raise .codec e s)

/-- A direct operation completes at once at the host control port (R31). -/
def answer (v : PortValue) (s : State) : Host.Outcome State Fault Refusal := .next (complete .control v s)

/-- A direct request ends with an error at the host control port (R280 (a)). -/
def reject (e : Error) (s : State) : Host.Outcome State Fault Refusal := .next (raise .control e s)

/-- Run `f` when `o` is a next state, and keep a stop. -/
def andThen (o : Host.Outcome State Fault Refusal) (f : State → State) : Host.Outcome State Fault Refusal :=
  match o with
  | .next s => .next (f s)
  | .fault r => .fault r
  | .refused r => .refused r

/-! ## The line -/

/-- Whether a buffer or queue of the given capacity (`none` is inf) has room for `n` more. -/
def hasRoom (depth : Option Nat) (used n : Nat) : Bool :=
  match depth with
  | none => true
  | some d => decide (used + n ≤ d)

/-- `Flush`: both buffers empty, event Flush (R66). -/
def flushLine (s : State) : State := emit .flush { s with rxb := [], txb := [] }

/-- `RxArrive(b)`: appended to RXB when the transport is open and RXB has room, else dropped (R64). -/
def rxArrive (b : Byte) (s : State) : State :=
  if s.isOpen && hasRoom s.params.rxbDepth s.rxb.length 1 then { s with rxb := s.rxb ++ [b] } else s

/-- `MemWrite(TX, 4, ..)`: the four bytes go through TXB onto the line in order, TXB is empty when the step ends,
event Tx (R62). -/
def memWrite (q : Quad) (s : State) : State := emit (.tx q.b0 q.b1 q.b2 q.b3) { s with txb := [] }

/-- Closing the handle empties both buffers (R186, D13). -/
def closeLine (s : State) : State := emit .closed { s with isOpen := false, rxb := [], txb := [] }

/-! ## The FIFOs -/

/-- The occupied slots the producer sees (R27). -/
def fifoUsed {α : Type} (q : Fifo α) : Nat := q.items.length + q.freed

/-- The producer sees room for `n` entries (R229, R237 (f)). -/
def fifoRoom {α : Type} (depth : Option Nat) (q : Fifo α) (n : Nat) : Bool := hasRoom depth (fifoUsed q) n

/-- The effect of a Push on the abstract state: appended, not yet visible (R229). -/
def fifoPush {α : Type} (q : Fifo α) (v : α) : Fifo α := { q with items := q.items ++ [v] }

/-- The effect of a Pop on the abstract state: the oldest entry leaves; with a finite depth the freed slot is not
yet known to the producer (R230). -/
def fifoPop {α : Type} (depth : Option Nat) (q : Fifo α) : Fifo α :=
  { items := q.items.tail, vis := q.vis - 1, freed := if depth.isSome then q.freed + 1 else q.freed }

/-- The entry a Pop takes: the head, when an entry is visible (R230). -/
def fifoHead {α : Type} (q : Fifo α) : Option α := if 0 < q.vis then q.items.head? else none

/-- `SyncW` drawing `n`: enabled for `vis < n <= len(items)` (R231); another draw makes no move (log 18). -/
def fifoSyncW {α : Type} (n : Nat) (q : Fifo α) : Fifo α :=
  if q.vis < n ∧ n ≤ q.items.length then { q with vis := n } else q

/-- `SyncR` drawing `m`: with a finite depth, enabled for `m < freed` (R231); another draw makes no move (log 18). -/
def fifoSyncR {α : Type} (depth : Option Nat) (m : Nat) (q : Fifo α) : Fifo α :=
  if depth.isSome ∧ m < q.freed then { q with freed := m } else q

/-- `Push(REQQ, r)` with its event (R229). -/
def pushReq (r : PendingRequest) (s : State) : State :=
  emit (.push (.reqq r)) { s with reqq := fifoPush s.reqq r }

/-- `Push(RESQ, v)` with its event (R229). -/
def pushRes (v : Byte) (s : State) : State := emit (.push (.resq v)) { s with resq := fifoPush s.resq v }

/-- `Pop(REQQ)` of the head `r`, with its event (R230). -/
def popReq (r : PendingRequest) (s : State) : State :=
  emit (.pop (.reqq r)) { s with reqq := fifoPop s.params.qdepthReq s.reqq }

/-- `Pop(RESQ)` of the head `v`, with its event (R230). -/
def popRes (v : Byte) (s : State) : State :=
  emit (.pop (.resq v)) { s with resq := fifoPop s.params.qdepthRes s.resq }

end Sys2Proof.Machine
end

