-- ==== Sys2Proof/Machine/Exchange.lean ====
section
/-! DEFINITION. The exchange as the small steps of XS (42_transport.md R172 to R184, the normative form), the
continuation of the client operations after it (43_client.md R200, R201, R208), and running an operation until
its owner waits for the line (log 3). -/

namespace Sys2Proof.Machine

/-! ## Starting an exchange -/

/-- Who asked for the operation that owns the exchange: SWITCHER in `S_EXCH`, else HOST (R290, R280). -/
def clientAsker (s : State) : Asker := if s.ss = .exch then .switcher else .control

/-- The operation in progress ends: PS back at C_IDLE (R200, R280). -/
def endOp (s : State) : State := { s with ps := .idle, cop := .none }

/-- The operation in progress ends with an error (R280). -/
def opFail (e : Error) (s : State) : State := raise (clientAsker s) e (endOp s)

/-- The operation in progress ends with a result (R200). -/
def opDone (v : PortValue) (s : State) : State := complete (clientAsker s) v (endOp s)

/-- The request of a direct operation is accepted and not yet complete (R30, log 10). In PULSE this happens at the start
of each of its three exchanges, and where a START_DP has completed at the port in between, this `busy` takes the place
of that completion: how overlapping completions of the host control port are shown is the model's choice (DESIGN CHOICE,
log 35). -/
def markBusy (s : State) : State := if s.ss = .exch then s else { s with hostPort := .busy }

/-- Start step of COMMUNICATE for the operation `op`, TXF being loaded (R172). With the transport closed it raises
E_CONN_CLOSED and nothing is flushed, written or waited for. -/
def startExchange (op : ClientOp) (s : State) : State :=
  if s.isOpen then markBusy { s with disc := 0, xres := .none, xs := .flush, cop := op }
  else opFail errConnClosed s

/-- ENCODE into TXF (R121), for operands that are bytes. -/
def loadTxf (c a d : Byte) (s : State) : State := writeTxf (frameBytes c a d) s

/-- A client operation sends one frame: PS busy, ENCODE, then the start step of COMMUNICATE (R200 (2), (3)). R200 orders
them; that they are one atomic step, with the operand checks before them, is the model's choice (DESIGN CHOICE,
log 33). -/
def sendFrame (op : ClientOp) (c a d : Byte) (s : State) : State :=
  startExchange op (loadTxf c a d { s with ps := .busy })

/-- SETALL of a card that is a byte: one SETPORT frame with `PACK(v)` (R203). -/
def sendSetall (op : ClientOp) (card : Byte) (v : RelayVec) (s : State) : State := sendFrame op 3 card (pack v) s

/-! ## The steps of XS -/

/-- Flush step (R173). -/
def xFlush (s : State) : State := { flushLine s with xs := .write }

/-- Write step (R174). -/
def xWrite (s : State) : State := { memWrite s.txf s with cn := 0, xs := .read }

/-- The read loop ends with the verdict `v` (R179 to R182). -/
def verdict (v : Verdict) (s : State) : State := { s with xres := v, xs := .pace }

/-- Accept a candidate of four bytes, then the optional checksum check (R181, R182). -/
def acceptChunk (s : State) : State :=
  let t := emit (.accept s.ch.b0 s.ch.b1 s.ch.b2 s.ch.b3) (writeRxf s.ch s)
  if s.csumVerify && checksumBad s.ch then verdict (.err (errCsum s.ch)) t else verdict .ok t

/-- A garbage chunk: discarded, or E_DESYNC when DISC = MAX_DISCARD (R180). -/
def garbageChunk (s : State) : State :=
  match s.maxDiscard with
  | none => { emit (.discard (chunkBytes s.ch s.cn)) s with disc := s.disc + 1, cn := 0 }
  | some m =>
    if s.disc = m then verdict (.err (errDesync m)) s
    else { emit (.discard (chunkBytes s.ch s.cn)) s with disc := s.disc + 1, cn := 0 }

/-- Chunk evaluation: empty, candidate or garbage, by the leading byte only (R178). -/
def evalChunk (s : State) : State :=
  if s.cn = 0 then verdict (.err (errConnTrunc 0)) s
  else if isCandidate s.ch.b0 then
    if s.cn < 4 then verdict (.err (errConnTrunc s.cn)) s else acceptChunk s
  else garbageChunk s

/-- A chunk read ends: ChunkDone, and the evaluation in the same step (R176). -/
def endChunk (s : State) : State := evalChunk (emit (.chunkDone (chunkBytes s.ch s.cn)) s)

/-- The bytes a Take puts into CH and CN (R176). -/
def takeByte (b : Byte) (rest : List Byte) (s : State) : State :=
  emit (.rxTake b) { s with rxb := rest, ch := putByte s.ch s.cn b, cn := s.cn + 1 }

/-- Take step: the oldest byte of RXB joins the chunk; the fourth byte ends the chunk read (R176). -/
def xTake (b : Byte) (rest : List Byte) (s : State) : State :=
  let t := takeByte b rest s
  if t.cn = 4 then endChunk t else t

/-- Timeout of a chunk read, agent TIMER: enabled in `X_READ` with CN < 4 and RXB empty (R176). -/
def readTimeout (s : State) : State :=
  if s.xs = .read ∧ s.cn < 4 ∧ s.rxb = [] then endChunk s else s

/-! ## After the exchange -/

/-- The response check `CHECK(c)`: only the command byte is compared (R201). -/
def checkResponse (c : Byte) (s : State) : Option Error :=
  if !isResp s.rxf.b0 || reqCode s.rxf.b0 != c then some (errProto (respCode c) s.rxf.b0) else none

/-- After the exchange of a client operation for request code `c`: its error, the response check, or the rest
`k` of the operation (R200 (3) to (5)). XRES = none does not occur here (log 25). -/
def afterExchange (c : Byte) (k : State → State) (s : State) : State :=
  match s.xres with
  | .none => s
  | .err e => opFail e s
  | .ok =>
    match checkResponse c s with
    | some e => opFail e s
    | none => k s

/-- Raw COMMUNICATE completes: the decoded frame, or the error in XRES (R184, R171). -/
def afterRaw (s : State) : State :=
  match s.xres with
  | .none => s
  | .err e => opFail e s
  | .ok => opDone (.frame (decodeQuad s.rxf)) s

/-- PULSE's set step, in `X_IDLE` after its QUERY: the working vector with indices 5, 6, 7 true, and the start of the
second exchange (R208; log 29). -/
def pulseOnStep (card : Byte) (s : State) : State :=
  let pv := setBits (pack (unpack s.rxf.b2)) pulseMask
  sendSetall (.pulseOn card) card (unpack pv) { s with pv := pv }

/-- PULSE's hold: a wait is one step that appends its event and changes nothing else (R12, R208); the clear step is
next. -/
def pulseHoldStep (card : Byte) (s : State) : State :=
  { emit (.wait .pulseHold s.params.tPulseMs) s with cop := .pulseClear card }

/-- PULSE's clear step, after the hold: the working vector with indices 5, 6, 7 false, and the start of the third
exchange (R208; log 29). -/
def pulseOffStep (card : Byte) (s : State) : State :=
  let pv := clrBits s.pv pulseMask
  sendSetall (.pulseOff card) card (unpack pv) { s with pv := pv }

/-- The operation that owns the exchange goes on when the pace wait is over (R184, R200, R203 to R208). -/
def opReturn (s : State) : State :=
  match s.cop with
  | .none => s
  | .raw => afterRaw s
  | .setall => afterExchange 3 (fun t => opDone (.vec (unpack t.rxf.b2)) t) s
  | .query => afterExchange 2 (fun t => opDone (.vec (unpack t.rxf.b2)) t) s
  | .enable => afterExchange 6 (opDone .unit) s
  | .disable => afterExchange 7 (opDone .unit) s
  | .pulseQuery card => afterExchange 2 (fun t => { t with cop := .pulseSet card }) s
  | .pulseSet _ => s
  | .pulseOn card => afterExchange 3 (fun t => { t with cop := .pulseHold card }) s
  | .pulseHold _ => s
  | .pulseClear _ => s
  | .pulseOff _ => afterExchange 3 (fun t => opDone (.vec (unpack t.pv)) t) s

/-- Pace step: the wait event, XS idle, and the operation completes (R184). R184 says it of COMMUNICATE; that the
response check, PS idle and the completion of a client operation (of SWITCHER's SETALL: LRES and SS, or ERRLOG, `Err`
and SS; of PULSE: its next step) fall in this same atomic step is the model's choice (DESIGN CHOICE, log 34). -/
def xPace (s : State) : State :=
  opReturn { emit (.wait .pace s.params.tPaceMs) s with xs := .idle }

/-! ## One step of the owner -/

/-- The next step of the owner of the exchange, `none` when it has none: it waits for the line in `X_READ`, or no
operation is in progress (R173 to R184, R188, R208). -/
def ownerStep (s : State) : Option State :=
  match s.xs with
  | .flush => some (xFlush s)
  | .write => some (xWrite s)
  | .read =>
    match s.rxb with
    | [] => none
    | b :: rest => if s.cn < 4 then some (xTake b rest s) else none
  | .pace => some (xPace s)
  | .idle =>
    match s.cop with
    | .pulseSet card => some (pulseOnStep card s)
    | .pulseHold card => some (pulseHoldStep card s)
    | .pulseClear card => some (pulseOffStep card s)
    | _ => none

/-! ## Running an operation until it waits (log 3) -/

/-- At most `n` steps of the owner. -/
def runOwner (n : Nat) (s : State) : State :=
  match n with
  | 0 => s
  | k + 1 =>
    match ownerStep s with
    | none => s
    | some t => runOwner k t

/-- The owner runs until it has no step: every byte of RXB is taken at most once, and beside the takes an operation
has at most five steps before it waits again. -/
def advance (s : State) : State := runOwner (s.rxb.length + 8) s

/-- One act of LINE or TIMER on a reader that waits. -/
def lineAct (a : LineAct) (s : State) : State :=
  match a with
  | .arrive b => rxArrive b s
  | .silence => readTimeout s

/-- The owner runs; whenever it waits in `X_READ`, the next act of LINE or TIMER is taken from `acts`. What is not
used stays in `lineIn`; when nothing is left, the operation stays in progress. -/
def drive (acts : List LineAct) (s : State) : State :=
  match acts with
  | [] => { advance s with lineIn := [] }
  | a :: rest =>
    let t := advance s
    if t.xs = .read then drive rest (lineAct a t) else { t with lineIn := a :: rest }

/-- Run the operation in progress as far as `lineIn` carries it. -/
def driveOp (s : State) : State := drive s.lineIn s

/-! ## The resynchronisation as a function (R183) -/

/-- The verdict of RESYNC: no verdict yet, accepted, or failed; each with the number of discarded chunks. -/
inductive ResyncResult where
  | reading (disc : Nat)
  | ok (chunk : Quad) (disc : Nat)
  | fail (e : Error) (disc : Nat)
deriving DecidableEq, Repr

/-- `RESYNC(disc, chunks)` of R183, for the given CSUM_VERIFY and MAX_DISCARD. -/
def resync (verify : Bool) (maxDiscard : Option Nat) (disc : Nat) (chunks : List (List Byte)) : ResyncResult :=
  match chunks with
  | [] => .reading disc
  | c :: rest =>
    match c with
    | [] => .fail (errConnTrunc 0) disc
    | c0 :: tail =>
      if isCandidate c0 then
        match tail with
        | [c1, c2, c3] =>
          if verify && checksumBad ⟨c0, c1, c2, c3⟩ then .fail (errCsum ⟨c0, c1, c2, c3⟩) disc
          else .ok ⟨c0, c1, c2, c3⟩ disc
        | _ => .fail (errConnTrunc (tail.length + 1)) disc
      else
        match maxDiscard with
        | some m => if disc = m then .fail (errDesync m) disc else resync verify maxDiscard (disc + 1) rest
        | none => resync verify maxDiscard (disc + 1) rest

/-- The acts of LINE and TIMER that make a chunk read return `c`: its bytes, and a timeout when it is short (R176). -/
def chunkActs (c : List Byte) : List LineAct :=
  c.map .arrive ++ (if c.length < 4 then [.silence] else [])

end Sys2Proof.Machine
end

