-- ==== Sys2Proof/Machine/Workers.lean ====
section
/-! DEFINITION. The two worker loops as atomic steps (44_pipeline.md R240 to R252) and the producer's pushes with
their hold (R229, R235, R236). -/

namespace Sys2Proof.Machine

/-! ## SWITCHER -/

/-- Top of the loop: the only place SWITCHER reads INTR, as its domain has sampled it (R240, R285, log 9). -/
def swTop (s : State) : State :=
  if s.intrSw then emit (.exited .sw) { s with doneSw := true, ss := .exited } else { s with ss := .wait }

/-- Dequeue: `LREQ <- Pop(REQQ)`, when an entry is visible (R242). -/
def swPop (s : State) : Option State :=
  match fifoHead s.reqq with
  | some r => some { popReq r s with lreq := r, ss := .exch }
  | none => none

/-- Poll timeout of SWITCHER, agent TIMER: enabled at any time in `S_WAIT` (R241). -/
def swPoll (s : State) : State := if s.ss = .wait then { s with ss := .top } else s

/-- The first step of `SETALL(CARD_ID, UNPACK(LREQ.target))` in `S_EXCH` (R243). -/
def swStart (s : State) : State := sendSetall .setall s.params.cardId (unpack s.lreq.target) s

/-- In `S_EXCH` no operation has been started yet: the SETALL of R243 is to begin. -/
def swNotStarted (s : State) : Bool := s.xs == .idle && s.cop == .none

/-- Publish: `Push(RESQ, LRES)`, when RESQ has room as the producer sees it (R245). -/
def swPush (s : State) : Option State :=
  if fifoRoom s.params.qdepthRes s.resq 1 then some { pushRes s.lres s with ss := .settle } else none

/-- Settle: the wait event, then the top of the loop (R247). -/
def swSettle (s : State) : State := { emit (.wait .settle s.lreq.settle) s with ss := .top }

/-- SWITCHER's next step, `none` when it has none: stopped, exited, nothing visible, held at a full RESQ, or waiting
for the line (R240 to R247). -/
def swStep (s : State) : Option State :=
  match s.ss with
  | .stopped => none
  | .top => some (swTop s)
  | .wait => swPop s
  | .exch => if swNotStarted s then some (swStart s) else ownerStep s
  | .push => swPush s
  | .settle => some (swSettle s)
  | .exited => none

/-- The exchange phase of an iteration: the SETALL is started if it is not, and runs as far as `lineIn` carries it. -/
def swExchange (s : State) : State := driveOp (if swNotStarted s then swStart s else s)

/-- One phase of an iteration: taken when SWITCHER is in state `at_`. -/
def swPhase (at_ : SState) (f : State → State) (s : State) : State := if s.ss = at_ then f s else s

/-- One iteration of the loop from where SWITCHER is (R248): the top, the dequeue or the poll timeout, the exchange,
the push, the settle wait. It stops early at the poll timeout, at an error, at a full RESQ, and where the
exchange waits for the line. -/
def swIteration (s : State) : State :=
  swPhase .settle swSettle
    (swPhase .push (fun t => (swPush t).getD t)
      (swPhase .exch swExchange
        (swPhase .wait (fun t => (swPop t).getD (swPoll t))
          (swPhase .top swTop s))))

/-! ## DISPLAY -/

/-- Top of the loop: the only place DISPLAY reads INTR, as its domain has sampled it (R249, log 9). -/
def dpTop (s : State) : State :=
  if s.intrDp then emit (.exited .dp) { s with doneDp := true, ds := .exited } else { s with ds := .wait }

/-- Deliver: pop, write CUR, set CURV, notify, all in one step (R251). -/
def dpDeliver (s : State) : Option State :=
  match fifoHead s.resq with
  | some v => some (emit (.notify v) { popRes v s with cur := v, curv := true, ds := .top })
  | none => none

/-- Poll timeout of DISPLAY, agent TIMER: enabled at any time in `P_WAIT` (R250). -/
def dpPoll (s : State) : State := if s.ds = .wait then { s with ds := .top } else s

/-- DISPLAY's next step, `none` when it has none (R249 to R251). -/
def dpStep (s : State) : Option State :=
  match s.ds with
  | .stopped => none
  | .top => some (dpTop s)
  | .wait => dpDeliver s
  | .exited => none

/-- One phase of an iteration of DISPLAY. -/
def dpPhase (at_ : DState) (f : State → State) (s : State) : State := if s.ds = at_ then f s else s

/-- One iteration of the loop from where DISPLAY is: the top, then the delivery or the poll timeout (R252). -/
def dpIteration (s : State) : State :=
  dpPhase .wait (fun t => (dpDeliver t).getD (dpPoll t)) (dpPhase .top dpTop s)

/-! ## The producer of REQQ -/

/-- The pushes of a batch from the snapshot `b` of CUR (R236). -/
def batchEntries (action : BatchAction) (targets : List Int) (duration : Nat) (b : Byte) : List PendingRequest :=
  let m := batchMask targets
  match action with
  | .activate => [{ target := setBits b m, settle := 0 }]
  | .deactivate => [{ target := clrBits b m, settle := 0 }]
  | .pulse => [{ target := setBits b m, settle := duration }, { target := clrBits b m, settle := 0 }]

/-- The entries a front-end request pushes in one step, the snapshot being taken in that step (R235, R236). -/
def feEntries (r : FeRequest) (s : State) : List PendingRequest :=
  match r with
  | .submit p => [p]
  | .batch action targets duration => batchEntries action targets duration s.cur

/-- Push entries one after another. -/
def pushAll (rs : List PendingRequest) (s : State) : State :=
  match rs with
  | [] => s
  | r :: rest => pushAll rest (pushReq r s)

/-- Push all entries of a front-end request, when the producer sees room for all of them (R229, R237 (f)). -/
def fePush (r : FeRequest) (s : State) : Option State :=
  if fifoRoom s.params.qdepthReq s.reqq (feEntries r s).length then
    some (complete .frontEnd .unit (pushAll (feEntries r s) s))
  else none

/-- HOST is held with the request (R229, log 16). -/
def feHold (r : FeRequest) (s : State) : State := { s with feWait := s.feWait ++ [r], fePort := .held }

/-- A front-end request that pushes: pushed at once, or held behind what HOST already waits with (R229, log 16). One
that fails before it pushes does not come here (`execBatch`, log 37). -/
def fePresent (r : FeRequest) (s : State) : State :=
  if s.feWait = [] then (fePush r s).getD (feHold r s) else feHold r s

/-- HOST tries its oldest held push again (R229). -/
def feRetry (s : State) : State :=
  match s.feWait with
  | [] => s
  | r :: rest =>
    match fePush r s with
    | some t => { t with feWait := rest }
    | none => s

end Sys2Proof.Machine
end

