-- ==== Sys2Proof/Machine/Pipeline.lean ====
section
/-! DEFINITION. The operations of the pipeline: SUBMIT, BATCH, START_SW, START_DP, SW_ITER, DP_ITER (44_pipeline.md
R235 to R252). -/

namespace Sys2Proof.Machine

/-- `SUBMIT(target, settle)` (R235): one push on REQQ, held while the producer sees it full. -/
def execSubmit (target : Byte) (settle : Int) (s : State) : Host.Outcome State Fault Refusal :=
  if !delayFits s.params.delayW settle then .refused .delayRange
  else .next (fePresent (.submit { target := target, settle := settle.toNat }) s)

/-- A duration that is present fits the port (R32, U11). -/
def durationFits (delayW : Nat) (duration : Option Int) : Bool :=
  match duration with
  | none => true
  | some ms => delayFits delayW ms

/-- `d <- if duration is present then duration else 0` (R236). -/
def durationMs (duration : Option Int) : Nat :=
  match duration with
  | none => 0
  | some ms => ms.toNat

/-- `BATCH(action, T, duration)`, one step of HOST (R236). A target out of range ends the request at once (R279), also
while earlier requests are held: it pushes nothing, so it does not wait behind them, and its error takes the place of
`held` in `fePort`, where the oldest held request shows its completion when it is pushed. R30 and R279 say nothing of a
second front-end request while one is held: that is the model's choice (DESIGN CHOICE, log 37). -/
def execBatch (action : BatchAction) (targets : List Int) (duration : Option Int) (s : State) :
    Host.Outcome State Fault Refusal :=
  if !s.curv then .refused .noDisplayedState
  else if !durationFits s.params.delayW duration then .refused .delayRange
  else
    match badTarget targets with
    | some t => .next (raise .frontEnd (errRangeIndex (t - 1)) s)
    | none => .next (fePresent (.batch action targets (durationMs duration)) s)

/-- `START_SW` (R239). -/
def execStartSw (s : State) : Host.Outcome State Fault Refusal :=
  if s.ss ≠ .stopped then .refused .notStopped
  else if !transportIdle s then .refused .busy
  else answer .unit { s with ss := .top }

/-- `START_DP` (R239), before or after `START_SW` (R316). While a direct operation is in progress its completion takes
the place of that operation's `busy` in `hostPort`, the operation completing there later: how overlapping completions
of the host control port are shown is the model's choice (DESIGN CHOICE, log 35). -/
def execStartDp (s : State) : Host.Outcome State Fault Refusal :=
  if s.ds ≠ .stopped then .refused .notStopped else answer .unit { s with ds := .top }

/-- `SW_ITER`: one iteration of the SWITCHER loop (R240 to R248, log 17). -/
def execSwIter (s : State) : Host.Outcome State Fault Refusal := .next (swIteration s)

/-- `DP_ITER`: one iteration of the DISPLAY loop (R249 to R252, log 17). -/
def execDpIter (s : State) : Host.Outcome State Fault Refusal := .next (dpIteration s)

end Sys2Proof.Machine
end

