-- ==== Sys2Proof/Machine/Transport.lean ====
section
/-! DEFINITION. SerialTransport: CONNECT, COMMUNICATE, SHUTDOWN (42_transport.md R166 to R187), and the common entry
of the direct operations that take an exchange (43_client.md R200; 60_exceptions.md R290). -/

namespace Sys2Proof.Machine

/-- Send a client operation's frame when `card` is a byte value, else E_RANGE_BYTE for the address (R203 to R208). -/
def withCard (card : Int) (k : Byte → State → State) (s : State) : State :=
  if byteInRange card then k (byteOfInt card) s else raise .control (errRangeByte 1) s

/-- Send a single-channel frame: `MASK1(index)` after the card check, its range error before anything is sent
(R205, R206, R278). -/
def withIndex (index : Int) (k : Byte → State → State) (s : State) : State :=
  if indexInRange index then k (pack (oneHot index.toNat)) s else raise .control (errRangeIndex index) s

/-- `req` of raw COMMUNICATE: the four bytes in TXF (R171). While nothing has written TXF since reset they are any value,
a free value (R29, U9; DESIGN CHOICE, log 7). -/
def rawRequest (s : State) : Quad := quadView s.txfWritten s.txf s.drawn

/-- The count of the free values drawn once `rawRequest` has been taken (log 7). -/
def rawDraws (s : State) : Nat := if s.txfWritten then s.drawn else s.drawn + 1

/-- TXF holds the request that is sent (R189): a TXF that has been written stays as it is, and one that has not takes
the free value (log 7). -/
def takeRequest (s : State) : State := writeTxf (rawRequest s) { s with drawn := rawDraws s }

/-- Start step of raw COMMUNICATE (R171, R172): with the transport closed TXF is not looked at, since nothing is sent and
no state changes. -/
def startRaw (s : State) : State := startExchange .raw (if s.isOpen then takeRequest s else s)

/-- The first step of a direct operation that takes an exchange, HOST holding the idle transport (R200 (1) to (3),
R172). -/
def startRequest (r : ClientRequest) (s : State) : State :=
  match r with
  | .communicate => startRaw s
  | .setall card v => withCard card (fun a => sendSetall .setall a v) s
  | .query card => withCard card (fun a => sendFrame .query 2 a 0) s
  | .enable card index => withCard card (fun a => withIndex index (sendFrame .enable 6 a)) s
  | .disable card index => withCard card (fun a => withIndex index (sendFrame .disable 7 a)) s
  | .pulse card => withCard card (fun a => sendFrame (.pulseQuery a) 2 a 0) s

/-- Raw COMMUNICATE sends what is in TXF, and its command byte must be a request code (R100, R172). Of a TXF that nothing
has written the free value that would be sent is tested; with the transport closed nothing would be sent, no value is
taken, and R171's first line answers (DESIGN CHOICE, log 7). The client operations send only codes 2, 3, 6 and 7. -/
def requestCodeOk (r : ClientRequest) (s : State) : Bool :=
  match r with
  | .communicate => (!s.txfWritten && !s.isOpen) || decide ((rawRequest s).b0.toNat ≤ 8)
  | .setall _ _ => true
  | .query _ => true
  | .enable _ _ => true
  | .disable _ _ => true
  | .pulse _ => true

/-- HOST asks for an operation that takes an exchange: refused unless HOST holds the idle transport (R290, R200,
R172), else its first step. Raw COMMUNICATE is refused too when its command byte is no request code (R100), and where TXF
has been written this is so whether the transport is open or not: R172 has it in its precondition, before the test of
OPEN. That raw COMMUNICATE is busy too while PS = C_BUSY and XS = X_IDLE, between PULSE's
exchanges, is the model's choice (log 32); and so is that an operation with an operand out of range, asked while a raw
COMMUNICATE is in progress and PS = C_IDLE, is refused as busy before its operands are looked at (log 36). -/
def issueRequest (r : ClientRequest) (s : State) : Host.Outcome State Fault Refusal :=
  if !hostHolds s then .refused .notHolder
  else if !transportIdle s then .refused .busy
  else if !requestCodeOk r s then .refused .requestCode
  else .next (startRequest r s)

/-- The whole operation: its first step, and then its owner's steps as far as `lineIn` carries it (log 3). -/
def runRequest (r : ClientRequest) (s : State) : Host.Outcome State Fault Refusal :=
  andThen (issueRequest r s) driveOp

/-- `CONNECT()` (R166): refused unless HOST holds the idle, closed transport; the outcome is the input
`line_open_ok`. -/
def execConnect (s : State) : Host.Outcome State Fault Refusal :=
  if !hostHolds s then .refused .notHolder
  else if !transportIdle s then .refused .busy
  else if s.isOpen then .refused .alreadyOpen
  else if s.lineOpenOk then answer .unit (emit .opened (flushLine { s with isOpen := true }))
  else reject errConnOpen s

/-- `COMMUNICATE(req)` at the direct port, `req` being the bytes in TXF (R171). -/
def execCommunicate (s : State) : Host.Outcome State Fault Refusal := runRequest .communicate s

/-- `SHUTDOWN()` (R186): idempotent, no error; refused unless HOST holds the idle transport (R187). -/
def execShutdown (s : State) : Host.Outcome State Fault Refusal :=
  if !hostHolds s then .refused .notHolder
  else if !transportIdle s then .refused .busy
  else answer .unit (if s.isOpen then closeLine s else s)

end Sys2Proof.Machine
end

