-- ==== Sys2Proof/Machine/Agents.lean ====
section
/-! DEFINITION. The atomic steps of the agents (00_scope.md R10) as the schedule names them, the reset input
(70_reset_and_hazards.md R310), and fetching the next entry of the schedule. A scheduled agent that has no
enabled step makes no move (log 18). -/

namespace Sys2Proof.Machine

/-- Reset (R310, R40): every register of the machine; the parameters (R311) and the environment's inputs and
schedule stay (log 19), and so does the count of free values drawn (log 7). -/
def resetStep (s : State) : State :=
  { State.resetWith s.params with
    intr := s.intr, lineOpenOk := s.lineOpenOk, agenda := s.agenda, lineIn := s.lineIn, drawn := s.drawn }

/-- An answer of the host control port to a register access (R30; that it lands in `regPort` is log 31). -/
def regAnswer (v : PortValue) (s : State) : Host.Outcome State Fault Refusal := .next { s with regPort := .ok v }

/-- The accesses that R25 allows while `XS = X_IDLE` only: reading and writing CSUM_VERIFY and MAX_DISCARD. -/
def needsIdle (r : ControlReg) : Bool :=
  match r with
  | .csumVerify => true
  | .maxDiscard => true
  | .cardId => false
  | .lineCfg => false
  | .status => false
  | .txf => false
  | .rxf => false

/-- HOST writes CSUM_VERIFY or MAX_DISCARD: refused while SWITCHER holds the transport (R290) or an exchange is in
progress (R25). R25 and R30 leave open whether a write completes at the port: here it does, with no result, in
`regPort` (DESIGN CHOICE, log 31). -/
def writeControl (f : State → State) (s : State) : Host.Outcome State Fault Refusal :=
  if !hostHolds s then .refused .notHolder
  else if s.xs ≠ .idle then .refused .busy
  else regAnswer .unit (f s)

/-- A read that drew a free value is counted, so that each read of an unwritten register may show another (log 7). -/
def afterRead (r : ControlReg) (s : State) : State :=
  if drawsValue r s then { s with drawn := s.drawn + 1 } else s

/-- HOST reads a register of the control port: STATUS always (R290); every other one is refused while SWITCHER holds
the transport, and CSUM_VERIFY and MAX_DISCARD also during an exchange (R25). Nothing but the answer changes (R67), and
the model's own count of the free values drawn (log 7). -/
def readControl (r : ControlReg) (s : State) : Host.Outcome State Fault Refusal :=
  if r ≠ .status && !hostHolds s then .refused .notHolder
  else if needsIdle r && s.xs ≠ .idle then .refused .busy
  else regAnswer (regValue r s) (afterRead r s)

/-- HOST steps its own operation; while SWITCHER is in `S_EXCH` the exchange is SWITCHER's (R176, R290). -/
def ownStep (s : State) : State := if s.ss = .exch then s else (ownerStep s).getD s

/-- One atomic step of one agent. -/
def agentStep (a : AgentStep) (s : State) : Host.Outcome State Fault Refusal :=
  match a with
  | .issue r => issueRequest r s
  | .own => .next (ownStep s)
  | .switcher => .next ((swStep s).getD s)
  | .display => .next ((dpStep s).getD s)
  | .frontEnd => .next (feRetry s)
  | .arrive b => .next (rxArrive b s)
  | .readTimeout => .next (readTimeout s)
  | .pollSw => .next (swPoll s)
  | .pollDp => .next (dpPoll s)
  | .syncReqW n => .next { s with reqq := fifoSyncW n s.reqq }
  | .syncReqR m => .next { s with reqq := fifoSyncR s.params.qdepthReq m s.reqq }
  | .syncResW n => .next { s with resq := fifoSyncW n s.resq }
  | .syncResR m => .next { s with resq := fifoSyncR s.params.qdepthRes m s.resq }
  | .sampleIntr .sw => .next { s with intrSw := s.intr }
  | .sampleIntr .dp => .next { s with intrDp := s.intr }
  | .driveIntr level => .next { s with intr := level }
  | .driveLineOk level => .next { s with lineOpenOk := level }
  | .writeCsumVerify v => writeControl (fun t => { t with csumVerify := v }) s
  | .writeMaxDiscard v => writeControl (fun t => { t with maxDiscard := v }) s
  | .readReg r => readControl r s
  | .reset => .next (resetStep s)

/-- What the schedule offers next. The state is the one the step then runs on: that entry is taken off. -/
inductive Fetched where
  | idle
  | instr (i : Instr) (s : State)
  | agent (a : AgentStep) (s : State)
  | malformed (e : DecodeError)
deriving DecidableEq, Repr

/-- Fetch the next entry of the schedule; the four bytes of a frame are decoded (R99, R103). -/
def fetch (s : State) : Fetched :=
  match s.agenda with
  | [] => .idle
  | .op i :: rest => .instr i { s with agenda := rest }
  | .agent a :: rest => .agent a { s with agenda := rest }
  | .frame bs :: rest =>
    match Sys2Proof.decode bs with
    | .ok i => .instr i { s with agenda := rest }
    | .error e => .malformed e

/-- The stop of a frame that does not decode: not four bytes (R103). -/
def decodeStop (e : DecodeError) : Host.Outcome State Fault Refusal :=
  match e with
  | .length n => .fault (.frameLength n)
  | .noRow _ => .refused .undecodable

/-- The schedule with `a` as its next entry: what the environment chooses to happen next (R10). -/
def offer (a : Action) (s : State) : State := { s with agenda := a :: s.agenda }

/-- The schedule with the four bytes of a frame as its next entry. -/
def offerFrame (bs : List Byte) (s : State) : State := offer (.frame bs) s

end Sys2Proof.Machine
end

