-- ==== Sys2Proof/Machine/Client.lean ====
section
/-! DEFINITION. The five device operations of RelayCardClient at the direct port (43_client.md R203 to R208). Each is
its first step and then its owner's steps: ENCODE, the exchange, the response check, the result (R200). -/

namespace Sys2Proof.Machine

/-- `SETALL(card, v) -> v'`: one SETPORT frame; the result is the board's echo (R203). -/
def execSetall (card : Int) (v : RelayVec) (s : State) : Host.Outcome State Fault Refusal :=
  runRequest (.setall card v) s

/-- `QUERY(card) -> v`: one GETPORT frame with data byte 0 (R204). -/
def execQuery (card : Int) (s : State) : Host.Outcome State Fault Refusal := runRequest (.query card) s

/-- `ENABLE(card, index)`: one SETSINGLE frame with the mask of the index (R205). -/
def execEnable (card index : Int) (s : State) : Host.Outcome State Fault Refusal := runRequest (.enable card index) s

/-- `DISABLE(card, index)`: one DELSINGLE frame with the mask of the index (R206). -/
def execDisable (card index : Int) (s : State) : Host.Outcome State Fault Refusal := runRequest (.disable card index) s

/-- `PULSE(card) -> v2`: GETPORT, SETPORT with indices 5, 6, 7 on, the hold, SETPORT with them off (R208). -/
def execPulse (card : Int) (s : State) : Host.Outcome State Fault Refusal := runRequest (.pulse card) s

end Sys2Proof.Machine
end

