-- ==== Sys2Proof/Machine/Codec.lean ====
section
/-! DEFINITION. FrameCodec and CommandSet (40_codec.md R120 to R127). The codec is combinational; its results go to the
port that asked (log 10), and ENCODE also writes TXF. -/

namespace Sys2Proof.Machine

/-- `CSUM(c, a, d)` (R120). -/
def execCsum (c a d : Byte) (s : State) : Host.Outcome State Fault Refusal := result (.byte (csum c a d)) s

/-- The first operand of ENCODE outside 0..255: 0 command, 1 address, 2 data (R121, R271, log 14). -/
def encodeRange (c a d : Int) : Option Info :=
  if !byteInRange c then some 0
  else if !byteInRange a then some 1
  else if !byteInRange d then some 2
  else none

/-- `ENCODE(c, a, d)` (R121). TXF belongs to the transport, so HOST must hold it and no operation may be in progress
(R290, R291, log 13). A range error leaves TXF unchanged. -/
def execEncode (c a d : Int) (s : State) : Host.Outcome State Fault Refusal :=
  if !hostHolds s then .refused .notHolder
  else if !transportIdle s then .refused .busy
  else
    match encodeRange c a d with
    | some which => failure (errRangeByte which) s
    | none =>
      let q := frameBytes (byteOfInt c) (byteOfInt a) (byteOfInt d)
      result (.bytes q) (writeTxf q s)

/-- `DECODE(b0, b1, b2, b3)`: total; the fourth byte is no field of the frame (R122). -/
def execDecode (b0 b1 b2 b3 : Byte) (s : State) : Host.Outcome State Fault Refusal :=
  result (.frame (decodeQuad ⟨b0, b1, b2, b3⟩)) s

/-- `ISRESP(c)` (R124). -/
def execIsresp (c : Byte) (s : State) : Host.Outcome State Fault Refusal := result (.bool (isResp c)) s

/-- `RESPCODE(c)`: the same formula for every byte (R125). -/
def execRespcode (c : Byte) (s : State) : Host.Outcome State Fault Refusal := result (.byte (respCode c)) s

/-- `REQCODE(r)`: the same formula for every byte (R126). -/
def execReqcode (r : Byte) (s : State) : Host.Outcome State Fault Refusal := result (.byte (reqCode r)) s

/-- `LABEL(frame)`: E_LABEL when the logical command is above 8 (R127). -/
def execLabel (f : Frame) (s : State) : Host.Outcome State Fault Refusal :=
  match labelOf (logicalCommand f.command) with
  | some n => result (.label n) s
  | none => failure (errLabel (logicalCommand f.command)) s

end Sys2Proof.Machine
end

