-- ==== Sys2Proof/Machine/Frames.lean ====
section
/-! DEFINITION. The frame rows of the opcode table. A request frame is sent: ENCODE, then COMMUNICATE (40_codec.md
R129). A response frame and a frame with a reserved command byte are what LINE delivers: four arrivals, taken by
the reader of the exchange if there is one (30_encoding.md R101, R102; log 4). -/

namespace Sys2Proof.Machine

/-- Send the request frame with code `c`: ENCODE computes the checksum byte that goes out (R121, R94), whatever
checksum the instruction carries (log 5), and COMMUNICATE sends it (R129, R171). -/
def requestFrame (c a d : Byte) (s : State) : Host.Outcome State Fault Refusal :=
  if !hostHolds s then .refused .notHolder
  else if !transportIdle s then .refused .busy
  else runRequest .communicate (loadTxf c a d s)

/-- LINE delivers four bytes, one `RxArrive` after another (R64). If an exchange is reading (`X_READ`), its owner then
goes on until it waits again: the resynchronisation decides what becomes of the chunk (R101, R178). In every other
state of XS, PULSE's hold among them, no owner moves and the bytes stay in RXB. That the owner moves in the same step,
and goes on past the end of its exchange (PULSE through its hold to its next reading), is the model's choice of
schedule (R10; log 4). -/
def deliverFrame (b0 b1 b2 b3 : Byte) (s : State) : Host.Outcome State Fault Refusal :=
  let t := rxArrive b3 (rxArrive b2 (rxArrive b1 (rxArrive b0 s)))
  .next (if t.xs = .read then advance t else t)

/-! ## Request frames (R130 to R138). The checksum byte of the instruction is not used (log 5). -/

/-- NOOP, code 0 (R130). -/
def execNoop (a d _x : Byte) (s : State) : Host.Outcome State Fault Refusal := requestFrame 0 a d s

/-- SETUP, code 1 (R131). -/
def execSetup (a d _x : Byte) (s : State) : Host.Outcome State Fault Refusal := requestFrame 1 a d s

/-- GETPORT, code 2 (R132). -/
def execGetport (a d _x : Byte) (s : State) : Host.Outcome State Fault Refusal := requestFrame 2 a d s

/-- SETPORT, code 3 (R133). -/
def execSetport (a d _x : Byte) (s : State) : Host.Outcome State Fault Refusal := requestFrame 3 a d s

/-- GETOPTION, code 4 (R134). -/
def execGetoption (a d _x : Byte) (s : State) : Host.Outcome State Fault Refusal := requestFrame 4 a d s

/-- SETOPTION, code 5 (R135). -/
def execSetoption (a d _x : Byte) (s : State) : Host.Outcome State Fault Refusal := requestFrame 5 a d s

/-- SETSINGLE, code 6 (R136). -/
def execSetsingle (a d _x : Byte) (s : State) : Host.Outcome State Fault Refusal := requestFrame 6 a d s

/-- DELSINGLE, code 7 (R137). -/
def execDelsingle (a d _x : Byte) (s : State) : Host.Outcome State Fault Refusal := requestFrame 7 a d s

/-- TOGGLE, code 8 (R138). -/
def execToggle (a d _x : Byte) (s : State) : Host.Outcome State Fault Refusal := requestFrame 8 a d s

/-! ## Response frames (R130 to R138): command byte `255 - c` -/

/-- R.NOOP, command byte 0xFF (R130, R96). -/
def execRNoop (a d x : Byte) (s : State) : Host.Outcome State Fault Refusal := deliverFrame 0xFF a d x s

/-- R.SETUP, command byte 0xFE (R131, R96). -/
def execRSetup (a d x : Byte) (s : State) : Host.Outcome State Fault Refusal := deliverFrame 0xFE a d x s

/-- R.GETPORT, command byte 0xFD (R132, R96). -/
def execRGetport (a d x : Byte) (s : State) : Host.Outcome State Fault Refusal := deliverFrame 0xFD a d x s

/-- R.SETPORT, command byte 0xFC (R133, R96). -/
def execRSetport (a d x : Byte) (s : State) : Host.Outcome State Fault Refusal := deliverFrame 0xFC a d x s

/-- R.GETOPTION, command byte 0xFB (R134, R96). -/
def execRGetoption (a d x : Byte) (s : State) : Host.Outcome State Fault Refusal := deliverFrame 0xFB a d x s

/-- R.SETOPTION, command byte 0xFA (R135, R96). -/
def execRSetoption (a d x : Byte) (s : State) : Host.Outcome State Fault Refusal := deliverFrame 0xFA a d x s

/-- R.SETSINGLE, command byte 0xF9 (R136, R96). -/
def execRSetsingle (a d x : Byte) (s : State) : Host.Outcome State Fault Refusal := deliverFrame 0xF9 a d x s

/-- R.DELSINGLE, command byte 0xF8 (R137, R96). -/
def execRDelsingle (a d x : Byte) (s : State) : Host.Outcome State Fault Refusal := deliverFrame 0xF8 a d x s

/-- R.TOGGLE, command byte 0xF7 (R138, R96). -/
def execRToggle (a d x : Byte) (s : State) : Host.Outcome State Fault Refusal := deliverFrame 0xF7 a d x s

/-! ## Reserved command bytes (R91, R101) -/

/-- RSVD_LOW, command byte 0x09: discarded by the resynchronisation (R101). -/
def execRsvdLow0909 (a d x : Byte) (s : State) : Host.Outcome State Fault Refusal := deliverFrame 0x09 a d x s

/-- RSVD_LOW, command bytes 0x0A to 0x0B: discarded by the resynchronisation (R101). -/
def execRsvdLow0A0B (sub : BitVec 1) (a d x : Byte) (s : State) : Host.Outcome State Fault Refusal :=
  deliverFrame (0x05#7 ++ sub) a d x s

/-- RSVD_LOW, command bytes 0x0C to 0x0F: discarded by the resynchronisation (R101). -/
def execRsvdLow0C0F (sub : BitVec 2) (a d x : Byte) (s : State) : Host.Outcome State Fault Refusal :=
  deliverFrame (0x03#6 ++ sub) a d x s

/-- RSVD_MID, command bytes 0x10 to 0x1F: discarded by the resynchronisation although ISRESP holds (R101). -/
def execRsvdMid101F (sub : BitVec 4) (a d x : Byte) (s : State) : Host.Outcome State Fault Refusal :=
  deliverFrame (0x1#4 ++ sub) a d x s

/-- RSVD_MID, command bytes 0x20 to 0x3F: discarded by the resynchronisation although ISRESP holds (R101). -/
def execRsvdMid203F (sub : BitVec 5) (a d x : Byte) (s : State) : Host.Outcome State Fault Refusal :=
  deliverFrame (0x1#3 ++ sub) a d x s

/-- RSVD_MID, command bytes 0x40 to 0x7F: discarded by the resynchronisation although ISRESP holds (R101). -/
def execRsvdMid407F (sub : BitVec 6) (a d x : Byte) (s : State) : Host.Outcome State Fault Refusal :=
  deliverFrame (0x1#2 ++ sub) a d x s

/-- RSVD_MID, command bytes 0x80 to 0xBF: discarded by the resynchronisation although ISRESP holds (R101). -/
def execRsvdMid80BF (sub : BitVec 6) (a d x : Byte) (s : State) : Host.Outcome State Fault Refusal :=
  deliverFrame (0x2#2 ++ sub) a d x s

/-- RSVD_MID, command bytes 0xC0 to 0xDF: discarded by the resynchronisation although ISRESP holds (R101). -/
def execRsvdMidC0DF (sub : BitVec 5) (a d x : Byte) (s : State) : Host.Outcome State Fault Refusal :=
  deliverFrame (0x6#3 ++ sub) a d x s

/-- RSVD_MID, command bytes 0xE0 to 0xEF: discarded by the resynchronisation although ISRESP holds (R101). -/
def execRsvdMidE0EF (sub : BitVec 4) (a d x : Byte) (s : State) : Host.Outcome State Fault Refusal :=
  deliverFrame (0xE#4 ++ sub) a d x s

/-- RSVD_HIGH, command bytes 0xF0 to 0xF3: accepted as a candidate; the response check then fails (R101). -/
def execRsvdHighF0F3 (sub : BitVec 2) (a d x : Byte) (s : State) : Host.Outcome State Fault Refusal :=
  deliverFrame (0x3C#6 ++ sub) a d x s

/-- RSVD_HIGH, command bytes 0xF4 to 0xF5: accepted as a candidate; the response check then fails (R101). -/
def execRsvdHighF4F5 (sub : BitVec 1) (a d x : Byte) (s : State) : Host.Outcome State Fault Refusal :=
  deliverFrame (0x7A#7 ++ sub) a d x s

/-- RSVD_HIGH, command byte 0xF6: accepted as a candidate; the response check then fails (R101). -/
def execRsvdHighF6F6 (a d x : Byte) (s : State) : Host.Outcome State Fault Refusal := deliverFrame 0xF6 a d x s

end Sys2Proof.Machine
end

