-- ==== Sys2Proof/Machine/Relay.lean ====
section
/-! DEFINITION. The relay bit-vector operations (41_relaystate.md R150 to R152). They are combinational. -/

namespace Sys2Proof.Machine

/-- `PACK(v)` (R150). -/
def execPack (v : RelayVec) (s : State) : Host.Outcome State Fault Refusal := result (.byte (pack v)) s

/-- `UNPACK(b)`: E_RANGE_BYTE outside 0 to 255 (R151; its info is the data operand's, log 14). -/
def execUnpack (b : Int) (s : State) : Host.Outcome State Fault Refusal :=
  if byteInRange b then result (.vec (unpack (byteOfInt b))) s else failure (errRangeByte 2) s

/-- `MASK1(index)`: E_RANGE_INDEX outside 0 to 7 (R152). -/
def execMask1 (index : Int) (s : State) : Host.Outcome State Fault Refusal :=
  if indexInRange index then result (.vec (oneHot index.toNat)) s else failure (errRangeIndex index) s

end Sys2Proof.Machine
end

