-- ==== Sys2Proof/Machine/Dispatch.lean ====
section
/-! DEFINITION. exec: one arm per constructor of Instr, each one direct call of that instruction's meaning. -/

namespace Sys2Proof.Machine

def exec (i : Instr) (s : State) : Host.Outcome State Fault Refusal :=
  match i with
  | .noop a d x => Sys2Proof.Machine.execNoop a d x s
  | .setup a d x => Sys2Proof.Machine.execSetup a d x s
  | .getport a d x => Sys2Proof.Machine.execGetport a d x s
  | .setport a d x => Sys2Proof.Machine.execSetport a d x s
  | .getoption a d x => Sys2Proof.Machine.execGetoption a d x s
  | .setoption a d x => Sys2Proof.Machine.execSetoption a d x s
  | .setsingle a d x => Sys2Proof.Machine.execSetsingle a d x s
  | .delsingle a d x => Sys2Proof.Machine.execDelsingle a d x s
  | .toggle a d x => Sys2Proof.Machine.execToggle a d x s
  | .rNoop a d x => Sys2Proof.Machine.execRNoop a d x s
  | .rSetup a d x => Sys2Proof.Machine.execRSetup a d x s
  | .rGetport a d x => Sys2Proof.Machine.execRGetport a d x s
  | .rSetport a d x => Sys2Proof.Machine.execRSetport a d x s
  | .rGetoption a d x => Sys2Proof.Machine.execRGetoption a d x s
  | .rSetoption a d x => Sys2Proof.Machine.execRSetoption a d x s
  | .rSetsingle a d x => Sys2Proof.Machine.execRSetsingle a d x s
  | .rDelsingle a d x => Sys2Proof.Machine.execRDelsingle a d x s
  | .rToggle a d x => Sys2Proof.Machine.execRToggle a d x s
  | .rsvdLow0909 a d x => Sys2Proof.Machine.execRsvdLow0909 a d x s
  | .rsvdLow0A0B sub a d x => Sys2Proof.Machine.execRsvdLow0A0B sub a d x s
  | .rsvdLow0C0F sub a d x => Sys2Proof.Machine.execRsvdLow0C0F sub a d x s
  | .rsvdMid101F sub a d x => Sys2Proof.Machine.execRsvdMid101F sub a d x s
  | .rsvdMid203F sub a d x => Sys2Proof.Machine.execRsvdMid203F sub a d x s
  | .rsvdMid407F sub a d x => Sys2Proof.Machine.execRsvdMid407F sub a d x s
  | .rsvdMid80BF sub a d x => Sys2Proof.Machine.execRsvdMid80BF sub a d x s
  | .rsvdMidC0DF sub a d x => Sys2Proof.Machine.execRsvdMidC0DF sub a d x s
  | .rsvdMidE0EF sub a d x => Sys2Proof.Machine.execRsvdMidE0EF sub a d x s
  | .rsvdHighF0F3 sub a d x => Sys2Proof.Machine.execRsvdHighF0F3 sub a d x s
  | .rsvdHighF4F5 sub a d x => Sys2Proof.Machine.execRsvdHighF4F5 sub a d x s
  | .rsvdHighF6F6 a d x => Sys2Proof.Machine.execRsvdHighF6F6 a d x s
  | .csum c a d => Sys2Proof.Machine.execCsum c a d s
  | .encode c a d => Sys2Proof.Machine.execEncode c a d s
  | .decode b0 b1 b2 b3 => Sys2Proof.Machine.execDecode b0 b1 b2 b3 s
  | .isresp c => Sys2Proof.Machine.execIsresp c s
  | .respcode c => Sys2Proof.Machine.execRespcode c s
  | .reqcode r => Sys2Proof.Machine.execReqcode r s
  | .label f => Sys2Proof.Machine.execLabel f s
  | .pack v => Sys2Proof.Machine.execPack v s
  | .unpack b => Sys2Proof.Machine.execUnpack b s
  | .mask1 index => Sys2Proof.Machine.execMask1 index s
  | .connect => Sys2Proof.Machine.execConnect s
  | .communicate => Sys2Proof.Machine.execCommunicate s
  | .shutdown => Sys2Proof.Machine.execShutdown s
  | .setall card v => Sys2Proof.Machine.execSetall card v s
  | .query card => Sys2Proof.Machine.execQuery card s
  | .enable card index => Sys2Proof.Machine.execEnable card index s
  | .disable card index => Sys2Proof.Machine.execDisable card index s
  | .pulse card => Sys2Proof.Machine.execPulse card s
  | .submit target settle => Sys2Proof.Machine.execSubmit target settle s
  | .batch action targets duration => Sys2Proof.Machine.execBatch action targets duration s
  | .startSw => Sys2Proof.Machine.execStartSw s
  | .startDp => Sys2Proof.Machine.execStartDp s
  | .swIter => Sys2Proof.Machine.execSwIter s
  | .dpIter => Sys2Proof.Machine.execDpIter s

end Sys2Proof.Machine
end

