-- ==== Sys2Proof/Machine/Step.lean ====
section
/-! DEFINITION. One step of the machine: the next entry of the schedule (00_scope.md R10; log 1). -/

namespace Sys2Proof.Machine

/-- One step. With nothing scheduled RCFC does nothing (70_reset_and_hazards.md R315). -/
def step (s : State) : Host.Outcome State Fault Refusal :=
  match fetch s with
  | .idle => .next s
  | .instr i t => exec i t
  | .agent a t => agentStep a t
  | .malformed e => decodeStop e

/-- The state in which the very next step runs the frame word `w` of a table row (log 2): its four bytes are the next
entry of the schedule. -/
def State.withFetchWord (s : State) (nbits w : Nat) : State := offerFrame (wordBytes (tableWord nbits w)) s

end Sys2Proof.Machine
end

