-- ==== Sys2Proof/Machine/AsyncFifo.lean ====
section
/-! DEFINITION. The dual-clock FIFO of 44_pipeline.md R233: Gray-coded pointers through two flip-flops. The spec calls it
general knowledge and informative: no rule depends on it, and the architecture's FIFO is the abstract one of R228
to R231 (Ops.lean), which is what State holds. It stands here with its abstraction so that a hardware model has
something definite to refine to (log 26). -/

namespace Sys2Proof.Machine

/-- The state of one FIFO of depth `2^aw`: storage, binary pointers of `aw + 1` bits, and the two synchroniser
stages of each Gray pointer in the other clock domain (R233). -/
structure AsyncFifo (aw : Nat) (α : Type) where
  mem  : Vector α (2 ^ aw)
  wbin : BitVec (aw + 1)
  rbin : BitVec (aw + 1)
  rq1wgray : BitVec (aw + 1)
  rq2wgray : BitVec (aw + 1)
  wq1rgray : BitVec (aw + 1)
  wq2rgray : BitVec (aw + 1)
deriving DecidableEq, Repr

/-- The Gray code of a binary pointer: `b ^ (b >> 1)` (R233). -/
def gray {w : Nat} (b : BitVec w) : BitVec w := b ^^^ (b >>> 1)

/-- `bin`, the inverse of the Gray code: the exclusive-or of all right shifts (R233). -/
def ungray {w : Nat} (g : BitVec w) : BitVec w := (List.range w).foldl (fun b i => b ^^^ (g >>> i)) 0

/-- The pattern that inverts the two top bits of a pointer of `aw + 1` bits (R233). -/
def topTwo (aw : Nat) : BitVec (aw + 1) := 3#(aw + 1) <<< (aw - 1)

/-- `empty = (rgray = rq2_wgray)` (R233). -/
def asyncEmpty {aw : Nat} {α : Type} (q : AsyncFifo aw α) : Bool := gray q.rbin == q.rq2wgray

/-- `full = (wgray = {~wq2_rgray[AW:AW-1], wq2_rgray[AW-2:0]})` (R233). -/
def asyncFull {aw : Nat} {α : Type} (q : AsyncFifo aw α) : Bool := gray q.wbin == (q.wq2rgray ^^^ topTwo aw)

/-- The storage index of a pointer: its low `aw` bits (R233). -/
def asyncIndex {aw : Nat} (p : BitVec (aw + 1)) : Fin (2 ^ aw) :=
  ⟨p.toNat % 2 ^ aw, Nat.mod_lt _ (Nat.two_pow_pos aw)⟩

/-- Push when not full (R233). -/
def asyncPush {aw : Nat} {α : Type} (v : α) (q : AsyncFifo aw α) : AsyncFifo aw α :=
  if asyncFull q then q else { q with mem := q.mem.set (asyncIndex q.wbin) v, wbin := q.wbin + 1 }

/-- Pop when not empty (R233). -/
def asyncPop {aw : Nat} {α : Type} (q : AsyncFifo aw α) : Option (α × AsyncFifo aw α) :=
  if asyncEmpty q then none else some (q.mem[asyncIndex q.rbin], { q with rbin := q.rbin + 1 })

/-- A clock edge of the consumer's domain moves the write pointer one synchroniser stage on (R233). -/
def asyncConsumerEdge {aw : Nat} {α : Type} (q : AsyncFifo aw α) : AsyncFifo aw α :=
  { q with rq1wgray := gray q.wbin, rq2wgray := q.rq1wgray }

/-- A clock edge of the producer's domain moves the read pointer one synchroniser stage on (R233). -/
def asyncProducerEdge {aw : Nat} {α : Type} (q : AsyncFifo aw α) : AsyncFifo aw α :=
  { q with wq1rgray := gray q.rbin, wq2rgray := q.wq1rgray }

/-- The abstract FIFO a realisation stands for: `MEM[rbin .. wbin-1]`, `vis` and `freed` (R233, R228). -/
def asyncAbstract {aw : Nat} {α : Type} (q : AsyncFifo aw α) : Fifo α :=
  { items := (List.range (q.wbin - q.rbin).toNat).map (fun i => q.mem[asyncIndex (q.rbin + BitVec.ofNat (aw + 1) i)])
    vis := (ungray q.rq2wgray - q.rbin).toNat
    freed := (q.rbin - ungray q.wq2rgray).toNat }

/-- The realisation after reset: pointers and flip-flops 0 (R233). -/
def asyncReset {α : Type} (aw : Nat) (v : α) : AsyncFifo aw α :=
  { mem := Vector.replicate (2 ^ aw) v, wbin := 0, rbin := 0
    rq1wgray := 0, rq2wgray := 0, wq1rgray := 0, wq2rgray := 0 }

end Sys2Proof.Machine
end

