-- ==== Sys2Proof/Machine/Runs.lean ====
section
/-! DEFINITION. Runs of the machine (00_scope.md R10, R12, R16): endless sequences of steps, the environment offering one
entry of the schedule at a time. An agenda of State is finite; a run is not, so runs that never end, as 42_transport.md
R185 has them, are runs of `step`. -/

namespace Sys2Proof.Machine

/-- `states` is the run of `step` from `states 0` under `schedule`: before step `k` the environment offers the entry
`schedule k`, and every step answers the next state. -/
def IsRun (schedule : Nat → Action) (states : Nat → State) : Prop :=
  ∀ k, step (offer (schedule k) (states k)) = .next (states (k + 1))

/-- A step of an agent is enabled where it changes the state (a step that is not enabled makes no move: log 18). -/
def isEnabled (a : AgentStep) (s : State) : Prop := ∃ t, agentStep a s = .next t ∧ t ≠ s

/-- A run is weakly fair to a step: where the step stays enabled it is taken in the end (R12). -/
def WeaklyFair (a : AgentStep) (schedule : Nat → Action) (states : Nat → State) : Prop :=
  ∀ n, (∀ k, n ≤ k → isEnabled a (states k)) → ∃ k, n ≤ k ∧ schedule k = .agent a

/-- The steps by which something is asked of the machine from outside: a request or a register access of HOST, an input
level, the reset. Fairness asks nothing of them; of every other step, LINE's arrivals included, R185 asks that it is
taken where it stays enabled (log 24). -/
def isFromOutside (a : AgentStep) : Bool :=
  match a with
  | .issue _ => true
  | .driveIntr _ => true
  | .driveLineOk _ => true
  | .writeCsumVerify _ => true
  | .writeMaxDiscard _ => true
  | .readReg _ => true
  | .reset => true
  | .own => false
  | .switcher => false
  | .display => false
  | .frontEnd => false
  | .arrive _ => false
  | .readTimeout => false
  | .pollSw => false
  | .pollDp => false
  | .syncReqW _ => false
  | .syncReqR _ => false
  | .syncResW _ => false
  | .syncResR _ => false
  | .sampleIntr _ => false

/-- SWITCHER's Pop is ready: it waits in `S_WAIT` and an entry of REQQ is visible (R242). -/
def popReady (s : State) : Prop := s.ss = .wait ∧ (fifoHead s.reqq).isSome = true

/-- DISPLAY's delivery is ready: it waits in `P_WAIT` and an entry of RESQ is visible (R251). -/
def deliverReady (s : State) : Prop := s.ds = .wait ∧ (fifoHead s.resq).isSome = true

/-- The step `a` of a worker serves its queue: where it comes to be ready again and again, it is taken in the end while
it is ready. The worker goes round its loop at every poll timeout, so its Pop does not stay ready; that the Timeout
"cannot starve the Pop for ever" all the same (R242; R250, "same discipline") is this. -/
def Served (a : AgentStep) (ready : State → Prop) (schedule : Nat → Action) (states : Nat → State) : Prop :=
  ∀ n, (∀ j, n ≤ j → ∃ k, j ≤ k ∧ ready (states k)) → ∃ k, n ≤ k ∧ ready (states k) ∧ schedule k = .agent a

/-- A run is fair: every step of the sequencers, of LINE, of TIMER and of SYNC that stays enabled is taken in the end
(R12, R185, R231), and no poll timeout starves SWITCHER's Pop or DISPLAY's delivery (R242, R250; log 24). -/
def Fair (schedule : Nat → Action) (states : Nat → State) : Prop :=
  (∀ a, isFromOutside a = false → WeaklyFair a schedule states)
  ∧ Served .switcher popReady schedule states ∧ Served .display deliverReady schedule states

end Sys2Proof.Machine
end

