-- ==== Sys2Proof/Safety.lean ====
section
/-! DEFINITION. What a safe state and a safe history are, and the words the statements use: readiness of the direct
port, the legal states of the sequencers, the FIFO histories in EV, and the state a completed exchange leaves. -/

namespace Sys2Proof.Machine

/-! ## Words for hypotheses -/

/-- HOST holds the transport and nothing is in progress on it: the direct port accepts a request (R290, R200). -/
abbrev hostReady (s : State) : Prop := hostHolds s = true ∧ transportIdle s = true

/-- RXB, empty, has room for one byte: with a finite RXB_DEPTH it is not 0 (R64). -/
abbrev rxbUsable (s : State) : Prop := hasRoom s.params.rxbDepth 0 1 = true

/-- A chunk passes the optional checksum check (R182). -/
abbrev checkPasses (s : State) (q : Quad) : Prop := s.csumVerify = false ∨ q.b3 = q.b0 ^^^ q.b1 ^^^ q.b2

/-- The bytes of a full chunk arrive one after another. -/
def quadActs (q : Quad) : List LineAct := [.arrive q.b0, .arrive q.b1, .arrive q.b2, .arrive q.b3]

/-! ## What a completed exchange leaves (R189) -/

/-- The events of an exchange that sends `q` and accepts `c` as its first chunk (R72, R176, R181, R184). -/
def exchangeEvents (p : Params) (q c : Quad) : List Event :=
  [.flush, .tx q.b0 q.b1 q.b2 q.b3, .rxTake c.b0, .rxTake c.b1, .rxTake c.b2, .rxTake c.b3,
   .chunkDone [c.b0, c.b1, c.b2, c.b3], .accept c.b0 c.b1 c.b2 c.b3, .wait .pace p.tPaceMs]

/-- The registers after an exchange that sent `q` and accepted `c` as its first chunk: TXF and RXF, which have then been
written (log 7), CH, CN, DISC, XRES,
the empty buffers, the idle state registers and the history; nothing else changes (R189). -/
def exchanged (q c : Quad) (s : State) : State :=
  { s with
    txf := q, rxf := c, txfWritten := true, rxfWritten := true
    ch := c, cn := 4, disc := 0, xres := .ok, rxb := [], txb := []
    xs := .idle, ps := .idle, cop := .none, ev := s.ev ++ exchangeEvents s.params q c }

/-- The events of a full chunk that is discarded as garbage (R176, R180). -/
def discardEvents (g : Quad) : List Event :=
  [.rxTake g.b0, .rxTake g.b1, .rxTake g.b2, .rxTake g.b3, .chunkDone g.toList, .discard g.toList]

/-- The events of an exchange that sends `q` and is answered by silence (R72, R176, R179, R184). -/
def silentEvents (p : Params) (q : Quad) : List Event :=
  [.flush, .tx q.b0 q.b1 q.b2 q.b3, .chunkDone [], .wait .pace p.tPaceMs]

/-- The request frame `[c, a, d, c ^ a ^ d]` (R129). -/
def requestQuad (c a d : Byte) : Quad := { b0 := c, b1 := a, b2 := d, b3 := c ^^^ a ^^^ d }

/-! ## The sequencers stay in their legal states -/

/-- The operations that go through a client operation (R200): PS is busy exactly with these. -/
def isClientOp (c : ClientOp) : Bool :=
  match c with
  | .none => false
  | .raw => false
  | .setall => true
  | .query => true
  | .enable => true
  | .disable => true
  | .pulseQuery _ => true
  | .pulseSet _ => true
  | .pulseOn _ => true
  | .pulseHold _ => true
  | .pulseClear _ => true
  | .pulseOff _ => true

/-- The operation is between exchanges: none at all, or PULSE in its set step, its hold or its clear step (R208). -/
def isBetween (c : ClientOp) : Bool :=
  match c with
  | .none => true
  | .raw => false
  | .setall => false
  | .query => false
  | .enable => false
  | .disable => false
  | .pulseQuery _ => false
  | .pulseSet _ => true
  | .pulseOn _ => false
  | .pulseHold _ => true
  | .pulseClear _ => true
  | .pulseOff _ => false

/-- A FIFO is in a legal state: the invariants of R228. -/
def fifoLegal {α : Type} (depth : Option Nat) (q : Fifo α) : Prop :=
  q.vis ≤ q.items.length ∧
  match depth with
  | none => q.freed = 0
  | some d => q.items.length + q.freed ≤ d

/-- The settle delays that are queued or in hand fit DELAYW bits (R226). -/
def delaysFit (s : State) : Prop :=
  (∀ r ∈ s.reqq.items, r.settle < 2 ^ s.params.delayW) ∧ s.lreq.settle < 2 ^ s.params.delayW

/-- The delay a held front-end request would push fits DELAYW bits (R226). -/
def heldFits (delayW : Nat) (r : FeRequest) : Prop :=
  match r with
  | .submit p => p.settle < 2 ^ delayW
  | .batch _ _ duration => duration < 2 ^ delayW

/-- The transport's registers agree with each other. -/
structure TransportInv (s : State) : Prop where
  /-- CN takes the values 0 to 4 (R21). -/
  cn_le : s.cn ≤ 4
  /-- While a chunk is being read it is not yet complete (R176). -/
  reading : s.xs = .read → s.cn < 4
  /-- While `OPEN = 0` RXB is empty and no exchange is in progress (R167, R189). -/
  closed : s.isOpen = false → s.rxb = [] ∧ s.xs = .idle
  /-- TXB is empty after every step (R62). -/
  txb_nil : s.txb = []
  /-- RXB never holds more than RXB_DEPTH bytes (R64). -/
  rxb_fits : hasRoom s.params.rxbDepth s.rxb.length 0 = true
  /-- A verdict has been reached when the pace wait is next (R179 to R182). -/
  decided : s.xs = .pace → s.xres ≠ .none
  /-- XS is idle exactly between exchanges. -/
  between : s.xs = .idle ↔ isBetween s.cop = true
  /-- PS is busy exactly during a client operation (R200). -/
  busy : s.ps = .busy ↔ isClientOp s.cop = true
  /-- An exchange has discarded at most MAX_DISCARD chunks (R180). -/
  discarded : s.xs ≠ .idle → ∀ m, s.maxDiscard = some m → s.disc ≤ m
  /-- The request of the exchange in progress has been written into TXF (R29, R171). -/
  sent : s.xs ≠ .idle → s.txfWritten = true
  /-- RXF has been written when an exchange has succeeded (R29, R181). -/
  received : s.xs = .pace → s.xres = .ok → s.rxfWritten = true

/-- The workers and the transport agree on who holds it, and the queues are legal. -/
structure PipelineInv (s : State) : Prop where
  /-- DONE_SW says that SWITCHER has exited (R240). -/
  done_sw : s.doneSw = true ↔ s.ss = .exited
  /-- DONE_DP says that DISPLAY has exited (R249). -/
  done_dp : s.doneDp = true ↔ s.ds = .exited
  /-- In `S_EXCH` the exchange in progress is SWITCHER's SETALL (R243). -/
  exch_op : s.ss = .exch → s.cop = .none ∨ s.cop = .setall
  /-- In SWITCHER's other running states there is no operation in progress (R290). -/
  running_op : s.ss = .top ∨ s.ss = .wait ∨ s.ss = .push ∨ s.ss = .settle → s.cop = .none
  /-- REQQ is legal (R228). -/
  reqq_legal : fifoLegal s.params.qdepthReq s.reqq
  /-- RESQ is legal (R228). -/
  resq_legal : fifoLegal s.params.qdepthRes s.resq
  /-- Queued settle delays fit (R226). -/
  delays : delaysFit s
  /-- Held requests fit (R226). -/
  held : ∀ r ∈ s.feWait, heldFits s.params.delayW r

/-- The machine's invariant: every state a run reaches from reset satisfies it. -/
structure MachineInv (s : State) : Prop where
  transport : TransportInv s
  pipeline : PipelineInv s

/-! ## Histories (R74, R232) -/

/-- The requests pushed into REQQ, in order. -/
def pushedReq (ev : List Event) : List PendingRequest :=
  ev.filterMap (fun e => match e with | .push (.reqq r) => some r | _ => none)

/-- The requests popped from REQQ, in order. -/
def poppedReq (ev : List Event) : List PendingRequest :=
  ev.filterMap (fun e => match e with | .pop (.reqq r) => some r | _ => none)

/-- The confirmed states pushed into RESQ, in order. -/
def pushedRes (ev : List Event) : List Byte :=
  ev.filterMap (fun e => match e with | .push (.resq v) => some v | _ => none)

/-- The confirmed states popped from RESQ, in order. -/
def poppedRes (ev : List Event) : List Byte :=
  ev.filterMap (fun e => match e with | .pop (.resq v) => some v | _ => none)

/-- The states notified, in order. -/
def notified (ev : List Event) : List Byte :=
  ev.filterMap (fun e => match e with | .notify v => some v | _ => none)

/-- The errors SWITCHER logged, in order. -/
def loggedErrors (ev : List Event) : List Error :=
  ev.filterMap (fun e => match e with | .err x => some x | _ => none)

/-- FIFO end to end (R74, R232): what was pushed is what was popped followed by what is still queued, what was
popped from RESQ is what was notified, and the Err events are ERRLOG (R244). -/
structure HistoryInv (s : State) : Prop where
  req : pushedReq s.ev = poppedReq s.ev ++ s.reqq.items
  res : pushedRes s.ev = poppedRes s.ev ++ s.resq.items
  note : notified s.ev = poppedRes s.ev
  log : loggedErrors s.ev = s.errlog
  /-- After a notification CUR is the state last notified (R251). -/
  cur : ∀ v, (notified s.ev).getLast? = some v → s.cur = v ∧ s.curv = true

/-! ## Runs of atomic steps -/

/-- Run atomic steps one after another, while each answers a next state. -/
def runAgents (as : List AgentStep) (s : State) : Option State :=
  match as with
  | [] => some s
  | a :: rest =>
    match agentStep a s with
    | .next t => runAgents rest t
    | .fault _ => none
    | .refused _ => none

/-- The atomic steps a whole direct operation is made of, after its first: its owner's, arrivals, read timeouts. -/
def isExchangeStep (a : AgentStep) : Bool :=
  match a with
  | .own => true
  | .arrive _ => true
  | .readTimeout => true
  | _ => false

end Sys2Proof.Machine
end

