-- ==== Sys2Proof/Certificates/Slice0/Obligations.lean ====
section
/-! DEFINITION. The statements for the provers. Each is about the machine, for every state and operand its hypotheses
admit; a next state is written out as an update of the state before, so that every field not named is unchanged
(the statement's frame). Where it sets `txfWritten` or `rxfWritten`, that is the model's record that the register has
been written (log 7); the port fields are log 10 and log 31. Witnesses of the hypotheses stand in
Sys2Proof/Tests/Slice0.lean. -/

section
open Sys2Proof Sys2Proof.Machine

/-! ## FrameCodec and CommandSet -/

/-- R120: CSUM is the exclusive-or of its three bytes, with the corner cases the rule lists. The result lands at the
codec port and nothing else changes. -/
def Obligations.CsumIsXor : Prop :=
  (∀ (c a d : Byte) (s : State), exec (.csum c a d) s = .next { s with codecPort := .ok (.byte (c ^^^ a ^^^ d)) })
  ∧ csum 0 0 0 = 0 ∧ csum 3 0 1 = 2
  ∧ (∀ x d : Byte, csum x x d = d)
  ∧ (∀ c a d : Byte, c ^^^ a ^^^ d ^^^ csum c a d = 0)
  ∧ (∀ c a d : Byte, csum c a d = csum a c d ∧ csum c a d = csum c d a ∧ csum c a d = csum d a c)

/-- R124: ISRESP holds exactly when the high nibble is not zero, in the rule's three spellings. -/
def Obligations.IsrespHighNibble : Prop :=
  ∀ (c : Byte) (s : State),
    exec (.isresp c) s = .next { s with codecPort := .ok (.bool ((c &&& 0xF0) != 0)) }
    ∧ ((c &&& 0xF0) != 0) = (c.extractLsb' 4 4 != 0)
    ∧ ((c &&& 0xF0) != 0) = decide (16 ≤ c.toNat)

/-- R122, R125, R126: DECODE is total, exposes bytes 0 to 2 and does not compare the fourth; RESPCODE and REQCODE are
`255 - c` on every byte, each the 8-bit complement and each other's inverse, and the response bytes of the request
codes 0 to 8 are 255 down to 247. -/
def Obligations.DecodeAndResponseCodes : Prop :=
  (∀ (b0 b1 b2 b3 : Byte) (s : State),
    exec (.decode b0 b1 b2 b3) s =
      .next { s with codecPort := .ok (.frame { command := b0, address := b1, data := b2 }) })
  ∧ (∀ b0 b1 b2 b3 : Byte, frameChecksum (decodeQuad ⟨b0, b1, b2, b3⟩) = b0 ^^^ b1 ^^^ b2)
  ∧ (∀ (c : Byte) (s : State), exec (.respcode c) s = .next { s with codecPort := .ok (.byte (255 - c)) })
  ∧ (∀ (r : Byte) (s : State), exec (.reqcode r) s = .next { s with codecPort := .ok (.byte (255 - r)) })
  ∧ (∀ c : Byte, respCode c = ~~~c ∧ reqCode (respCode c) = c)
  ∧ (∀ c : Byte, c.toNat ≤ 8 → (respCode c).toNat = 255 - c.toNat ∧ 247 ≤ (respCode c).toNat)
  ∧ (∀ c : Byte, logicalCommand c = if 16 ≤ c.toNat then 255 - c else c)

/-- R127: LABEL of a frame is the name of its logical command, or E_LABEL when that is above 8. -/
def Obligations.LabelOrError : Prop :=
  ∀ (f : Frame) (s : State) (k : Byte), k = (if 16 ≤ f.command.toNat then 255 - f.command else f.command) →
    (k.toNat ≤ 8 → ∃ n : CommandName, exec (.label f) s = .next { s with codecPort := .ok (.label n) }
      ∧ ["NOOP", "SETUP", "GETPORT", "SETPORT", "GETOPTION", "SETOPTION", "SETSINGLE", "DELSINGLE", "TOGGLE"][k.toNat]?
        = some (labelText n))
    ∧ (8 < k.toNat → exec (.label f) s = .next { s with codecPort := .err { cause := .label, info := k.setWidth 16 } })

/-- R121 with log 13 (HOST must hold the idle transport: the model's reading of R290) and log 10 (the result lands at
the codec port): ENCODE of three integers in range writes TXF and answers the frame; the first operand out of range
ends it with E_RANGE_BYTE and TXF unchanged, where that the info names the first of several is the model's choice
(log 14). Any byte may be the command. -/
def Obligations.EncodeWritesTxf : Prop :=
  ∀ (c a d : Int) (s : State), hostReady s →
    ((0 ≤ c ∧ c ≤ 255) → (0 ≤ a ∧ a ≤ 255) → (0 ≤ d ∧ d ≤ 255) →
      ∃ q : Quad, q = requestQuad (BitVec.ofInt 8 c) (BitVec.ofInt 8 a) (BitVec.ofInt 8 d)
        ∧ exec (.encode c a d) s = .next { s with txf := q, txfWritten := true, codecPort := .ok (.bytes q) })
    ∧ ((c < 0 ∨ 255 < c) →
      exec (.encode c a d) s = .next { s with codecPort := .err { cause := .rangeByte, info := 0 } })
    ∧ ((0 ≤ c ∧ c ≤ 255) → (a < 0 ∨ 255 < a) →
      exec (.encode c a d) s = .next { s with codecPort := .err { cause := .rangeByte, info := 1 } })
    ∧ ((0 ≤ c ∧ c ≤ 255) → (0 ≤ a ∧ a ≤ 255) → (d < 0 ∨ 255 < d) →
      exec (.encode c a d) s = .next { s with codecPort := .err { cause := .rangeByte, info := 2 } })

/-- R139 (a) to (d), the laws of the codec. -/
def Obligations.CodecLaws : Prop :=
  (∀ c a d : Byte, (frameBytes c a d).toList.length = 4
    ∧ (frameBytes c a d).b0 = c ∧ (frameBytes c a d).b1 = a ∧ (frameBytes c a d).b2 = d
    ∧ (frameBytes c a d).b0 ^^^ (frameBytes c a d).b1 ^^^ (frameBytes c a d).b2 ^^^ (frameBytes c a d).b3 = 0)
  ∧ (∀ c a d : Byte, decodeQuad (frameBytes c a d) = { command := c, address := a, data := d })
  ∧ (∀ c : Byte, c.toNat ≤ 8 → isResp c = false ∧ isResp (respCode c) = true ∧ reqCode (respCode c) = c
    ∧ labelOf (logicalCommand (respCode c)) = labelOf (logicalCommand c))
  ∧ (∀ r : Byte, 0xF0 ≤ r.toNat → isResp r = true)

/-! ## RelayState -/

/-- R150, R151, R152: bit i of the packed byte is element i of the vector, both ways, and MASK1 is true at its index
only. The range errors of UNPACK and MASK1 leave everything but the codec port unchanged; that UNPACK's info is 2, and
the info of MASK1 for a negative index, are the model's choice (log 14). -/
def Obligations.RelayVectorOps : Prop :=
  (∀ (v : RelayVec) (s : State), ∃ b : Byte, exec (.pack v) s = .next { s with codecPort := .ok (.byte b) }
    ∧ ∀ i : Fin 8, b.getLsbD i = v[i])
  ∧ (∀ (b : Int) (s : State), 0 ≤ b → b ≤ 255 →
    ∃ v : RelayVec, exec (.unpack b) s = .next { s with codecPort := .ok (.vec v) }
      ∧ ∀ i : Fin 8, v[i] = (BitVec.ofInt 8 b).getLsbD i)
  ∧ (∀ (b : Int) (s : State), b < 0 ∨ 255 < b →
    exec (.unpack b) s = .next { s with codecPort := .err { cause := .rangeByte, info := 2 } })
  ∧ (∀ (x : Int) (s : State), 0 ≤ x → x ≤ 7 →
    ∃ v : RelayVec, exec (.mask1 x) s = .next { s with codecPort := .ok (.vec v) }
      ∧ ∀ i : Fin 8, v[i] = decide ((i.val : Int) = x))
  ∧ (∀ (x : Int) (s : State), x < 0 ∨ 7 < x →
    exec (.mask1 x) s = .next { s with codecPort := .err { cause := .rangeIndex, info := BitVec.ofInt 16 x } })

/-- R153, R154 and the lane operations of R155: PACK and UNPACK are exact inverses; the packed single-bit mask of index
i is `1 << i`; setting and clearing the lanes of a mask leaves the other lanes, and clearing after setting is
clearing; PULSE's mask is lanes 5, 6 and 7. -/
def Obligations.RelayVectorLaws : Prop :=
  (∀ v : RelayVec, unpack (pack v) = v) ∧ (∀ b : Byte, pack (unpack b) = b)
  ∧ (∀ i : Fin 8, pack (oneHot i) = (1 : Byte) <<< i.val ∧ ∀ j : Fin 8, (oneHot i)[j] = decide (j = i))
  ∧ (∀ (b m : Byte) (i : Nat), i < 8 → (setBits b m).getLsbD i = (b.getLsbD i || m.getLsbD i)
    ∧ (clrBits b m).getLsbD i = (b.getLsbD i && !m.getLsbD i))
  ∧ (∀ b m : Byte, clrBits (setBits b m) m = clrBits b m)
  ∧ (∀ i : Fin 8, pulseMask.getLsbD i = decide (5 ≤ i.val))

/-! ## SerialTransport -/

/-- R166, R168: CONNECT by the holder of the idle, closed transport opens it when the line opens and reports
E_CONN_OPEN when it does not; in every other case it is refused. Whether the line opens is the input `line_open_ok`
(R30), which the platform drives (log 8). -/
def Obligations.ConnectOutcomes : Prop :=
  ∀ s : State,
    (hostReady s → s.isOpen = false → s.lineOpenOk = true →
      exec .connect s = .next { s with isOpen := true, rxb := [], txb := [], ev := s.ev ++ [.flush, .opened],
                                       hostPort := .ok .unit })
    ∧ (hostReady s → s.isOpen = false → s.lineOpenOk = false →
      exec .connect s = .next { s with hostPort := .err { cause := .connOpen, info := 0 } })
    ∧ (hostReady s → s.isOpen = true → exec .connect s = .refused .alreadyOpen)
    ∧ (¬ hostReady s → exec .connect s = .refused .notHolder ∨ exec .connect s = .refused .busy)
    ∧ (∀ level, agentStep (.driveLineOk level) s = .next { s with lineOpenOk := level })

/-- R186, R187: SHUTDOWN by the holder of the idle transport closes it and empties the buffers, does nothing to a
closed one, and always completes; otherwise it is refused. -/
def Obligations.ShutdownOutcomes : Prop :=
  ∀ s : State,
    (hostReady s → s.isOpen = true →
      exec .shutdown s = .next { s with isOpen := false, rxb := [], txb := [], ev := s.ev ++ [.closed],
                                        hostPort := .ok .unit })
    ∧ (hostReady s → s.isOpen = false → exec .shutdown s = .next { s with hostPort := .ok .unit })
    ∧ (¬ hostReady s → exec .shutdown s = .refused .notHolder ∨ exec .shutdown s = .refused .busy)

/-- R64: an arriving byte is appended to RXB when the transport is open and RXB is not full, and is dropped with no
state change otherwise. -/
def Obligations.LineArrival : Prop :=
  ∀ (b : Byte) (s : State),
    (s.isOpen = true → (∀ d, s.params.rxbDepth = some d → s.rxb.length < d) →
      agentStep (.arrive b) s = .next { s with rxb := s.rxb ++ [b] })
    ∧ (s.isOpen = false → agentStep (.arrive b) s = .next s)
    ∧ (∀ d, s.params.rxbDepth = some d → d ≤ s.rxb.length → agentStep (.arrive b) s = .next s)

/-- R173, R174 (with R66 and R62): the flush step and the write step of an exchange, taken by its owner: HOST, or
SWITCHER in `S_EXCH`. -/
def Obligations.FlushAndWriteSteps : Prop :=
  ∀ (s : State) (owner : AgentStep), s.ss ≠ .exch ∧ owner = .own ∨ s.ss = .exch ∧ owner = .switcher →
    (s.xs = .flush →
      agentStep owner s = .next { s with rxb := [], txb := [], ev := s.ev ++ [.flush], xs := .write })
    ∧ (s.xs = .write →
      agentStep owner s = .next { s with txb := [], ev := s.ev ++ [.tx s.txf.b0 s.txf.b1 s.txf.b2 s.txf.b3],
                                         cn := 0, xs := .read })

/-- R176, R178 to R180: what a read timeout does in `X_READ` with CN < 4 and RXB empty: the chunk of CN bytes ends and
is evaluated by its leading byte. -/
def Obligations.TimeoutVerdicts : Prop :=
  ∀ s : State, s.xs = .read → s.rxb = [] →
    (s.cn = 0 → agentStep .readTimeout s =
      .next { s with ev := s.ev ++ [.chunkDone []], xres := .err { cause := .connTrunc, info := 0 }, xs := .pace })
    ∧ (0 < s.cn → s.cn < 4 → 0xF0 ≤ s.ch.b0.toNat → agentStep .readTimeout s =
      .next { s with ev := s.ev ++ [.chunkDone (s.ch.toList.take s.cn)],
                     xres := .err { cause := .connTrunc, info := BitVec.ofNat 16 s.cn }, xs := .pace })
    ∧ (0 < s.cn → s.cn < 4 → s.ch.b0.toNat < 0xF0 → s.maxDiscard ≠ some s.disc → agentStep .readTimeout s =
      .next { s with ev := s.ev ++ [.chunkDone (s.ch.toList.take s.cn), .discard (s.ch.toList.take s.cn)],
                     disc := s.disc + 1, cn := 0 })
    ∧ (0 < s.cn → s.cn < 4 → s.ch.b0.toNat < 0xF0 → s.maxDiscard = some s.disc → agentStep .readTimeout s =
      .next { s with ev := s.ev ++ [.chunkDone (s.ch.toList.take s.cn)],
                     xres := .err { cause := .desync, info := BitVec.ofNat 16 s.disc }, xs := .pace })

/-- R176, R178, R180 to R182: the take step. Bytes 1 to 3 only join the chunk; the fourth ends it, and the chunk is
accepted, fails the optional checksum check, is discarded, or ends the exchange with E_DESYNC. The step is the
owner's: HOST's, or SWITCHER's in `S_EXCH`. -/
def Obligations.TakeVerdicts : Prop :=
  ∀ (s : State) (owner : AgentStep) (b : Byte) (rest : List Byte),
    s.ss ≠ .exch ∧ owner = .own ∨ s.ss = .exch ∧ owner = .switcher → s.xs = .read → s.rxb = b :: rest →
    (s.cn < 3 → agentStep owner s =
      .next { s with rxb := rest, ch := putByte s.ch s.cn b, cn := s.cn + 1, ev := s.ev ++ [.rxTake b] })
    ∧ (s.cn = 3 → ∀ q : Quad, q = { s.ch with b3 := b } →
      (0xF0 ≤ q.b0.toNat → checkPasses s q → agentStep owner s =
        .next { s with rxb := rest, ch := q, cn := 4, rxf := q, rxfWritten := true, xres := .ok, xs := .pace,
                       ev := s.ev ++ [.rxTake b, .chunkDone q.toList, .accept q.b0 q.b1 q.b2 q.b3] })
      ∧ (0xF0 ≤ q.b0.toNat → ¬ checkPasses s q → agentStep owner s =
        .next { s with rxb := rest, ch := q, cn := 4, rxf := q, rxfWritten := true, xs := .pace,
                       xres := .err { cause := .csum, info := (q.b0 ^^^ q.b1 ^^^ q.b2) ++ q.b3 },
                       ev := s.ev ++ [.rxTake b, .chunkDone q.toList, .accept q.b0 q.b1 q.b2 q.b3] })
      ∧ (q.b0.toNat < 0xF0 → s.maxDiscard ≠ some s.disc → agentStep owner s =
        .next { s with rxb := rest, ch := q, cn := 0, disc := s.disc + 1,
                       ev := s.ev ++ [.rxTake b, .chunkDone q.toList, .discard q.toList] })
      ∧ (q.b0.toNat < 0xF0 → s.maxDiscard = some s.disc → agentStep owner s =
        .next { s with rxb := rest, ch := q, cn := 4, xs := .pace,
                       xres := .err { cause := .desync, info := BitVec.ofNat 16 s.disc },
                       ev := s.ev ++ [.rxTake b, .chunkDone q.toList] }))

/-- R184 for raw COMMUNICATE: the pace step emits the wait, ends the exchange and completes the operation with the
decoded frame, or with the error in XRES. -/
def Obligations.PaceCompletesCommunicate : Prop :=
  ∀ s : State, s.xs = .pace → s.ss ≠ .exch → s.cop = .raw →
    (s.xres = .ok → agentStep .own s =
      .next { s with ev := s.ev ++ [.wait .pace s.params.tPaceMs], xs := .idle, ps := .idle, cop := .none,
                     hostPort := .ok (.frame ⟨s.rxf.b0, s.rxf.b1, s.rxf.b2⟩) })
    ∧ (∀ e, s.xres = .err e → agentStep .own s =
      .next { s with ev := s.ev ++ [.wait .pace s.params.tPaceMs], xs := .idle, ps := .idle, cop := .none,
                     hostPort := .err e })

/-- R188: the transitions of XS, and no others. First those that a step of the owner makes: the flush, write, take and
pace steps, and from `X_IDLE` the steps of PULSE between its exchanges (log 29), which start an exchange on an open
transport or stay idle. Then those of every atomic step of every agent, reset aside. -/
def Obligations.XsTransitions : Prop :=
  (∀ s t : State, ownerStep s = some t →
    (s.xs = .flush → t.xs = .write)
    ∧ (s.xs = .write → t.xs = .read)
    ∧ (s.xs = .read → t.xs = .read ∨ t.xs = .pace)
    ∧ (s.xs = .pace → t.xs = .idle)
    ∧ (s.xs = .idle → t.xs = .idle ∨ (t.xs = .flush ∧ s.isOpen = true
      ∧ ∃ card, s.cop = .pulseSet card ∨ s.cop = .pulseClear card)))
  ∧ (∀ (a : AgentStep) (s t : State), a ≠ .reset → agentStep a s = .next t →
    t.xs = s.xs ∨ (s.xs, t.xs) ∈ [(XState.idle, XState.flush), (.flush, .write), (.write, .read), (.read, .pace),
      (.pace, .idle)])

/-- R189, R291: no step of an exchange touches what belongs to the producers, to DISPLAY, to HOST's inputs or to the
control registers; in particular no error closes the connection. -/
def Obligations.ExchangeFrame : Prop :=
  ∀ s t : State, ownerStep s = some t →
    t.isOpen = s.isOpen ∧ t.csumVerify = s.csumVerify ∧ t.maxDiscard = s.maxDiscard
    ∧ t.reqq = s.reqq ∧ t.resq = s.resq ∧ t.cur = s.cur ∧ t.curv = s.curv ∧ t.ds = s.ds
    ∧ t.doneSw = s.doneSw ∧ t.doneDp = s.doneDp ∧ t.lreq = s.lreq ∧ t.intr = s.intr
    ∧ t.intrSw = s.intrSw ∧ t.intrDp = s.intrDp ∧ t.lineOpenOk = s.lineOpenOk ∧ t.params = s.params
    ∧ t.drawn = s.drawn ∧ t.codecPort = s.codecPort ∧ t.fePort = s.fePort ∧ t.regPort = s.regPort ∧ t.feWait = s.feWait
    ∧ t.agenda = s.agenda ∧ t.lineIn = s.lineIn

/-- R183, E7: N full garbage chunks followed by one valid chunk: exactly the N garbage chunks are discarded and the
valid one is returned. -/
def Obligations.ResyncDiscardsGarbage : Prop :=
  ∀ (verify : Bool) (maxDiscard : Option Nat) (gs : List Quad) (f : Quad),
    (∀ g ∈ gs, g.b0.toNat < 0xF0) → 0xF0 ≤ f.b0.toNat →
    (verify = false ∨ f.b3 = f.b0 ^^^ f.b1 ^^^ f.b2) → (∀ m, maxDiscard = some m → gs.length ≤ m) →
    resync verify maxDiscard 0 (gs.map Quad.toList ++ [f.toList]) = .ok f gs.length

/-- R329, R180: with a finite MAX_DISCARD a verdict is reached after at most MAX_DISCARD + 1 chunks. -/
def Obligations.BoundedResyncEnds : Prop :=
  ∀ (verify : Bool) (m : Nat) (cs : List (List Byte)), m + 1 ≤ cs.length →
    ∀ d, resync verify (some m) 0 cs ≠ .reading d

/-- R183: the exchange's verdict is `RESYNC(disc, cs)` of the chunks its reads return, and the count it carries is the
final DISC. The chunks are fed byte by byte, a short one ended by a timeout, to an exchange of raw COMMUNICATE that
has just begun a chunk read. RXF changes only with an accepted or a checksum-failing chunk (R179, R181, R182). -/
def Obligations.ResyncIsTheReadLoop : Prop :=
  ∀ (s : State) (cs : List (List Byte)),
    s.xs = .read → s.cn = 0 → s.rxb = [] → s.cop = .raw → s.ss ≠ .exch → s.isOpen = true → rxbUsable s →
    (∀ c ∈ cs, c.length ≤ 4) →
    ∃ t : State, drive (cs.flatMap chunkActs) s = t ∧
      match resync s.csumVerify s.maxDiscard s.disc cs with
      | .reading d => t.xs = .read ∧ t.cn = 0 ∧ t.disc = d ∧ t.rxf = s.rxf ∧ t.xres = s.xres ∧ t.cop = .raw
      | .ok q d => t.xs = .idle ∧ t.disc = d ∧ t.rxf = q ∧ t.xres = .ok ∧ t.cop = .none
          ∧ t.hostPort = .ok (.frame (decodeQuad q))
      | .fail e d => t.xs = .idle ∧ t.disc = d ∧ t.xres = .err e ∧ t.cop = .none ∧ t.hostPort = .err e
          ∧ (e.cause ≠ .csum → t.rxf = s.rxf)

/-! ## Direct operations: what a completed exchange leaves -/

/-- R129 to R138, R171: each of the nine request frames is sent as `[c, a, d, c ^ a ^ d]`, and the four-byte candidate
that the line delivers first is the response: COMMUNICATE completes with its frame. The bytes come from `lineIn`
(log 3); the checksum byte of the instruction is recomputed, not used (log 5). Registers: R189. -/
def Obligations.RequestFramesComplete : Prop :=
  ∀ (a d x : Byte) (c : Quad) (rest : List LineAct) (s : State),
    hostReady s → s.isOpen = true → rxbUsable s → 0xF0 ≤ c.b0.toNat → checkPasses s c →
    s.lineIn = quadActs c ++ rest →
    ∀ k : Byte, ∀ i : Instr,
      (k, i) ∈ [((0 : Byte), Instr.noop a d x), (1, .setup a d x), (2, .getport a d x), (3, .setport a d x),
        (4, .getoption a d x), (5, .setoption a d x), (6, .setsingle a d x), (7, .delsingle a d x),
        (8, .toggle a d x)] →
      exec i s = .next { exchanged (requestQuad k a d) c s with
                         hostPort := .ok (.frame ⟨c.b0, c.b1, c.b2⟩), lineIn := rest }

/-- R171: raw COMMUNICATE sends the four bytes in TXF, whose command byte is a request code, and completes with the
frame of the first candidate. With another command byte it is refused (R100; `DirectRefusals`). While nothing has
written TXF since reset the four bytes are a free value, the same test decides about them, and TXF then holds what was
sent: the model's choice (log 7), as is the count of the free values drawn. -/
def Obligations.CommunicateCompletes : Prop :=
  ∀ (c : Quad) (rest : List LineAct) (s : State) (sent : Quad → State),
    hostReady s → s.isOpen = true → rxbUsable s → 0xF0 ≤ c.b0.toNat → checkPasses s c → s.lineIn = quadActs c ++ rest →
    (∀ q : Quad, sent q =
      { exchanged q c s with hostPort := .ok (.frame ⟨c.b0, c.b1, c.b2⟩), lineIn := rest }) →
    (s.txfWritten = true → s.txf.b0.toNat ≤ 8 → exec .communicate s = .next (sent s.txf))
    ∧ (s.txfWritten = false → exec .communicate s =
        if (anyQuad s.drawn).b0.toNat ≤ 8 then .next { sent (anyQuad s.drawn) with drawn := s.drawn + 1 }
        else .refused .requestCode)

/-- R203 to R206 with R200, R201: each of the four one-exchange client operations sends its frame, and completes with
its result when the first candidate carries the command byte `255 - code`, whatever its address and data bytes are. -/
def Obligations.ClientOpsComplete : Prop :=
  ∀ (card index : Int) (v : RelayVec) (c : Quad) (rest : List LineAct) (s : State),
    0 ≤ card → card ≤ 255 → 0 ≤ index → index ≤ 7 →
    hostReady s → s.isOpen = true → rxbUsable s → checkPasses s c → s.lineIn = quadActs c ++ rest →
    (c.b0 = 0xFC → exec (.setall card v) s =
      .next { exchanged (requestQuad 3 (BitVec.ofInt 8 card) (pack v)) c s with
              hostPort := .ok (.vec (unpack c.b2)), lineIn := rest })
    ∧ (c.b0 = 0xFD → exec (.query card) s =
      .next { exchanged (requestQuad 2 (BitVec.ofInt 8 card) 0) c s with
              hostPort := .ok (.vec (unpack c.b2)), lineIn := rest })
    ∧ (c.b0 = 0xF9 → exec (.enable card index) s =
      .next { exchanged (requestQuad 6 (BitVec.ofInt 8 card) ((1 : Byte) <<< index.toNat)) c s with
              hostPort := .ok .unit, lineIn := rest })
    ∧ (c.b0 = 0xF8 → exec (.disable card index) s =
      .next { exchanged (requestQuad 7 (BitVec.ofInt 8 card) ((1 : Byte) <<< index.toNat)) c s with
              hostPort := .ok .unit, lineIn := rest })

/-- R201, R273: a candidate with another command byte fails the operation with E_PROTO, which names the expected and
the received command byte; the exchange itself has completed and its registers hold what it left. -/
def Obligations.WrongCommandFails : Prop :=
  ∀ (card index : Int) (v : RelayVec) (c : Quad) (rest : List LineAct) (s : State),
    0 ≤ card → card ≤ 255 → 0 ≤ index → index ≤ 7 →
    hostReady s → s.isOpen = true → rxbUsable s → checkPasses s c → s.lineIn = quadActs c ++ rest →
    0xF0 ≤ c.b0.toNat →
    (c.b0 ≠ 0xFC → exec (.setall card v) s =
      .next { exchanged (requestQuad 3 (BitVec.ofInt 8 card) (pack v)) c s with
              hostPort := .err { cause := .proto, info := (0xFC : Byte) ++ c.b0 }, lineIn := rest })
    ∧ (c.b0 ≠ 0xFD → exec (.query card) s =
      .next { exchanged (requestQuad 2 (BitVec.ofInt 8 card) 0) c s with
              hostPort := .err { cause := .proto, info := (0xFD : Byte) ++ c.b0 }, lineIn := rest })
    ∧ (c.b0 ≠ 0xF9 → exec (.enable card index) s =
      .next { exchanged (requestQuad 6 (BitVec.ofInt 8 card) ((1 : Byte) <<< index.toNat)) c s with
              hostPort := .err { cause := .proto, info := (0xF9 : Byte) ++ c.b0 }, lineIn := rest })
    ∧ (c.b0 ≠ 0xF8 → exec (.disable card index) s =
      .next { exchanged (requestQuad 7 (BitVec.ofInt 8 card) ((1 : Byte) <<< index.toNat)) c s with
              hostPort := .err { cause := .proto, info := (0xF8 : Byte) ++ c.b0 }, lineIn := rest })

/-- R182, R276: with CSUM_VERIFY = 1 a candidate whose checksum byte is wrong ends raw COMMUNICATE and QUERY with
E_CSUM; the chunk is in RXF and the reading is not resumed. A TXF that nothing has written is sent as a free value
(log 7). -/
def Obligations.BadChecksumFails : Prop :=
  ∀ (card : Int) (c : Quad) (rest : List LineAct) (s : State) (e : Error),
    hostReady s → s.isOpen = true → rxbUsable s → 0xF0 ≤ c.b0.toNat → s.csumVerify = true →
    c.b3 ≠ c.b0 ^^^ c.b1 ^^^ c.b2 → s.lineIn = quadActs c ++ rest →
    e = { cause := .csum, info := (c.b0 ^^^ c.b1 ^^^ c.b2) ++ c.b3 } →
    (∀ (q : Quad) (n : Nat),
      (s.txfWritten = true ∧ q = s.txf ∧ n = s.drawn ∨ s.txfWritten = false ∧ q = anyQuad s.drawn ∧ n = s.drawn + 1) →
      q.b0.toNat ≤ 8 → exec .communicate s =
        .next { exchanged q c s with drawn := n, xres := .err e, hostPort := .err e, lineIn := rest })
    ∧ (0 ≤ card → card ≤ 255 → exec (.query card) s =
      .next { exchanged (requestQuad 2 (BitVec.ofInt 8 card) 0) c s with
              xres := .err e, hostPort := .err e, lineIn := rest })

/-- R179, R184, R272: no answer at all. A read timeout before the first byte ends COMMUNICATE and the five client
operations with E_CONN_TRUNC(0), after the pace wait; RXF and CH keep what they held, the connection stays open, and
PULSE sends nothing more (R209 b). A TXF that nothing has written is sent as a free value (log 7). -/
def Obligations.NoAnswerFails : Prop :=
  ∀ (card index : Int) (v : RelayVec) (rest : List LineAct) (s : State) (e : Error) (gone : Quad → State),
    0 ≤ card → card ≤ 255 → 0 ≤ index → index ≤ 7 →
    hostReady s → s.isOpen = true → s.lineIn = .silence :: rest → e = { cause := .connTrunc, info := 0 } →
    (∀ q : Quad, gone q =
      { s with txf := q, txfWritten := true, cn := 0, disc := 0, xres := .err e, rxb := [], txb := [], cop := .none,
               lineIn := rest, hostPort := .err e,
               ev := s.ev ++ [.flush, .tx q.b0 q.b1 q.b2 q.b3, .chunkDone [], .wait .pace s.params.tPaceMs] }) →
    (∀ (q : Quad) (n : Nat),
      (s.txfWritten = true ∧ q = s.txf ∧ n = s.drawn ∨ s.txfWritten = false ∧ q = anyQuad s.drawn ∧ n = s.drawn + 1) →
      q.b0.toNat ≤ 8 → exec .communicate s = .next { gone q with drawn := n })
    ∧ exec (.setall card v) s = .next (gone (requestQuad 3 (BitVec.ofInt 8 card) (pack v)))
    ∧ exec (.query card) s = .next (gone (requestQuad 2 (BitVec.ofInt 8 card) 0))
    ∧ exec (.enable card index) s = .next (gone (requestQuad 6 (BitVec.ofInt 8 card) ((1 : Byte) <<< index.toNat)))
    ∧ exec (.disable card index) s = .next (gone (requestQuad 7 (BitVec.ofInt 8 card) ((1 : Byte) <<< index.toNat)))
    ∧ exec (.pulse card) s = .next (gone (requestQuad 2 (BitVec.ofInt 8 card) 0))

/-- R171, R172, R202, R272: on a closed transport raw COMMUNICATE changes nothing but its completion E_CONN_CLOSED, also
while nothing has written TXF (log 7), as from reset; a client
operation and each of the nine request frames have written TXF before it (R200 (2); log 12), and nothing is flushed,
written or waited for. -/
def Obligations.ClosedTransportFails : Prop :=
  ∀ (card index : Int) (v : RelayVec) (a d x : Byte) (s : State) (shut : Quad → State),
    0 ≤ card → card ≤ 255 → 0 ≤ index → index ≤ 7 → hostReady s → s.isOpen = false →
    (∀ q : Quad, shut q =
      { s with txf := q, txfWritten := true, cop := .none, hostPort := .err { cause := .connClosed, info := 0 } }) →
    ((s.txfWritten = true → s.txf.b0.toNat ≤ 8) → exec .communicate s =
      .next { s with cop := .none, hostPort := .err { cause := .connClosed, info := 0 } })
    ∧ exec (.setall card v) s = .next (shut (requestQuad 3 (BitVec.ofInt 8 card) (pack v)))
    ∧ exec (.query card) s = .next (shut (requestQuad 2 (BitVec.ofInt 8 card) 0))
    ∧ exec (.enable card index) s = .next (shut (requestQuad 6 (BitVec.ofInt 8 card) ((1 : Byte) <<< index.toNat)))
    ∧ exec (.disable card index) s = .next (shut (requestQuad 7 (BitVec.ofInt 8 card) ((1 : Byte) <<< index.toNat)))
    ∧ exec (.pulse card) s = .next (shut (requestQuad 2 (BitVec.ofInt 8 card) 0))
    ∧ (∀ (k : Byte) (i : Instr),
      (k, i) ∈ [((0 : Byte), Instr.noop a d x), (1, .setup a d x), (2, .getport a d x), (3, .setport a d x),
        (4, .getoption a d x), (5, .setoption a d x), (6, .setsingle a d x), (7, .delsingle a d x),
        (8, .toggle a d x)] →
      exec i s = .next (shut (requestQuad k a d)))

/-- R278, R274: the range errors of the client operations come first, the card's before the index's and both before
the connection's, and leave everything but the completion unchanged. The info of a negative index is the model's
choice (log 14). `cop = none` holds of every idle state a run
reaches (`MachineInvKept`). -/
def Obligations.RangeErrorsFirst : Prop :=
  ∀ (card index : Int) (v : RelayVec) (s : State), hostReady s → s.cop = .none →
    ((card < 0 ∨ 255 < card) → ∀ i, i ∈ [Instr.setall card v, .query card, .enable card index, .disable card index,
        .pulse card] →
      exec i s = .next { s with hostPort := .err { cause := .rangeByte, info := 1 } })
    ∧ (0 ≤ card → card ≤ 255 → (index < 0 ∨ 7 < index) → ∀ i, i ∈ [Instr.enable card index, .disable card index] →
      exec i s = .next { s with hostPort := .err { cause := .rangeIndex, info := BitVec.ofInt 16 index } })

/-- R208, R209 (a): PULSE reads the state, writes it with channels 5, 6, 7 on, holds, writes it with those channels off
and returns that vector, which does not depend on what the board echoes; the events stand in the rule's order. -/
def Obligations.PulseCompletes : Prop :=
  ∀ (card : Int) (c1 c2 c3 q1 q2 q3 : Quad) (rest : List LineAct) (s : State),
    0 ≤ card → card ≤ 255 → hostReady s → s.isOpen = true → rxbUsable s →
    c1.b0 = 0xFD → c2.b0 = 0xFC → c3.b0 = 0xFC → checkPasses s c1 → checkPasses s c2 → checkPasses s c3 →
    s.lineIn = quadActs c1 ++ quadActs c2 ++ quadActs c3 ++ rest →
    q1 = requestQuad 2 (BitVec.ofInt 8 card) 0 →
    q2 = requestQuad 3 (BitVec.ofInt 8 card) (c1.b2 ||| 0xE0) →
    q3 = requestQuad 3 (BitVec.ofInt 8 card) (c1.b2 &&& 0x1F) →
    exec (.pulse card) s =
      .next { s with
        txf := q3, rxf := c3, txfWritten := true, rxfWritten := true,
        ch := c3, cn := 4, disc := 0, xres := .ok, rxb := [], txb := [], cop := .none,
        pv := c1.b2 &&& 0x1F, lineIn := rest, hostPort := .ok (.vec (unpack (c1.b2 &&& 0x1F))),
        ev := s.ev ++ exchangeEvents s.params q1 c1 ++ exchangeEvents s.params q2 c2
          ++ [.wait .pulseHold s.params.tPulseMs] ++ exchangeEvents s.params q3 c3 }

/-- R290, R200, R187, R100: who does not hold the transport, or asks while it is busy, is refused by name, for every
operation of the control port, the request frames and ENCODE (log 13 for the last two) included. Busy is XS or PS not
idle: that raw COMMUNICATE is refused also with XS idle and PS busy is log 32, and that operands out of range make no
difference while a raw COMMUNICATE is in progress is log 36. Raw COMMUNICATE is refused too when the command byte in TXF
is above 8, and so is that of the free value which an open transport would send of a TXF that nothing has written
(log 7). -/
def Obligations.DirectRefusals : Prop :=
  ∀ (card index ci ai di : Int) (v : RelayVec) (a d x : Byte) (s : State) (i : Instr),
    i ∈ [Instr.connect, .communicate, .shutdown, .setall card v, .query card, .enable card index, .disable card index,
      .pulse card, .encode ci ai di, .noop a d x, .setup a d x, .getport a d x, .setport a d x, .getoption a d x,
      .setoption a d x, .setsingle a d x, .delsingle a d x, .toggle a d x] →
    (s.ss ≠ .stopped → s.ss ≠ .exited → exec i s = .refused .notHolder)
    ∧ ((s.ss = .stopped ∨ s.ss = .exited) → (s.xs ≠ .idle ∨ s.ps ≠ .idle) → exec i s = .refused .busy)
    ∧ (hostReady s → ∀ q : Quad,
      (s.txfWritten = true ∧ q = s.txf ∨ s.txfWritten = false ∧ s.isOpen = true ∧ q = anyQuad s.drawn) →
      8 < q.b0.toNat → exec .communicate s = .refused .requestCode)

/-- R25, R290, R67: the control registers. CSUM_VERIFY and MAX_DISCARD are written and read by the holder while no
exchange is in progress, the other registers are read by the holder at any time, STATUS is read by HOST always, and
every other access is refused. A read changes nothing but its answer; of TXF and RXF it answers the last value written,
and before the first write any value (R29, U9): a free value, of which the model counts how many it has drawn (log 7).
That an access answers in `regPort`, and a write with no result, is the model's choice (log 31). -/
def Obligations.ControlRegisterWrites : Prop :=
  ∀ (v : Bool) (m : Option Nat) (s : State),
    (hostHolds s = true → s.xs = .idle →
      agentStep (.writeCsumVerify v) s = .next { s with csumVerify := v, regPort := .ok .unit }
      ∧ agentStep (.writeMaxDiscard m) s = .next { s with maxDiscard := m, regPort := .ok .unit }
      ∧ agentStep (.readReg .csumVerify) s = .next { s with regPort := .ok (.bool s.csumVerify) }
      ∧ agentStep (.readReg .maxDiscard) s = .next { s with regPort := .ok (.limit s.maxDiscard) })
    ∧ (hostHolds s = true → s.xs ≠ .idle →
      agentStep (.writeCsumVerify v) s = .refused .busy ∧ agentStep (.writeMaxDiscard m) s = .refused .busy
      ∧ agentStep (.readReg .csumVerify) s = .refused .busy ∧ agentStep (.readReg .maxDiscard) s = .refused .busy)
    ∧ (hostHolds s = true →
      (s.txfWritten = true → agentStep (.readReg .txf) s = .next { s with regPort := .ok (.bytes s.txf) })
      ∧ (s.rxfWritten = true → agentStep (.readReg .rxf) s = .next { s with regPort := .ok (.bytes s.rxf) })
      ∧ (s.txfWritten = false → agentStep (.readReg .txf) s =
        .next { s with regPort := .ok (.bytes (anyQuad s.drawn)), drawn := s.drawn + 1 })
      ∧ (s.rxfWritten = false → agentStep (.readReg .rxf) s =
        .next { s with regPort := .ok (.bytes (anyQuad s.drawn)), drawn := s.drawn + 1 })
      ∧ agentStep (.readReg .cardId) s = .next { s with regPort := .ok (.byte s.params.cardId) }
      ∧ agentStep (.readReg .lineCfg) s =
        .next { s with regPort := .ok (.lineCfg ⟨s.params.baud, 8, false, 1, false, s.params.tReadMs⟩) })
    ∧ (hostHolds s = false →
      agentStep (.writeCsumVerify v) s = .refused .notHolder ∧ agentStep (.writeMaxDiscard m) s = .refused .notHolder
      ∧ ∀ r, r ≠ .status → agentStep (.readReg r) s = .refused .notHolder)
    ∧ agentStep (.readReg .status) s =
      .next { s with regPort := .ok (.status ⟨s.isOpen, s.xs, s.ps, s.ss, s.ds, s.doneSw, s.doneDp, s.cn, s.disc,
        s.curv⟩) }

/-! ## What the line delivers -/

/-- R64, R102: a received frame is never executed. While no exchange is reading, the rows of the nine response frames
(R.NOOP, R.SETUP, R.GETPORT, R.SETPORT, R.GETOPTION, R.SETOPTION, R.SETSINGLE, R.DELSINGLE, R.TOGGLE) and of the
twelve reserved ranges (RSVD_LOW, RSVD_MID, RSVD_HIGH) only leave their four bytes in RXB when the transport is open,
and nothing when it is closed; PULSE's hold is one of these states. That these rows stand for an arrival on the line is
the model's reading (log 4). -/
def Obligations.ReceivedFramesArrive : Prop :=
  ∀ (i : Instr) (b0 b1 b2 b3 : Byte) (s : State),
    encode i = some [b0, b1, b2, b3] → 9 ≤ b0.toNat → s.xs ≠ .read →
    (s.isOpen = false → exec i s = .next s)
    ∧ (s.isOpen = true → (∀ d, s.params.rxbDepth = some d → s.rxb.length + 4 ≤ d) →
      exec i s = .next { s with rxb := s.rxb ++ [b0, b1, b2, b3] })

/-- R101, R178, R180, R181: a received frame that meets an exchange of raw COMMUNICATE at the start of a chunk read is
the response when its command byte is at least 0xF0 (RSVD_HIGH and the nine responses), and is discarded whole when
it is below (RSVD_LOW, RSVD_MID, although ISRESP holds of RSVD_MID). -/
def Obligations.ReceivedFramesInExchange : Prop :=
  ∀ (i : Instr) (b0 b1 b2 b3 : Byte) (s : State),
    encode i = some [b0, b1, b2, b3] → 9 ≤ b0.toNat →
    s.xs = .read → s.cn = 0 → s.rxb = [] → s.cop = .raw → s.ss ≠ .exch → s.isOpen = true →
    (∀ d, s.params.rxbDepth = some d → 4 ≤ d) →
    (0xF0 ≤ b0.toNat → checkPasses s ⟨b0, b1, b2, b3⟩ → exec i s =
      .next { s with rxf := ⟨b0, b1, b2, b3⟩, rxfWritten := true, ch := ⟨b0, b1, b2, b3⟩, cn := 4, xres := .ok,
                     xs := .idle, ps := .idle, cop := .none, hostPort := .ok (.frame ⟨b0, b1, b2⟩),
                     ev := s.ev ++ [.rxTake b0, .rxTake b1, .rxTake b2, .rxTake b3, .chunkDone [b0, b1, b2, b3],
                       .accept b0 b1 b2 b3, .wait .pace s.params.tPaceMs] })
    ∧ (b0.toNat < 0xF0 → s.maxDiscard = none → exec i s =
      .next { s with ch := ⟨b0, b1, b2, b3⟩, cn := 0, disc := s.disc + 1,
                     ev := s.ev ++ [.rxTake b0, .rxTake b1, .rxTake b2, .rxTake b3, .chunkDone [b0, b1, b2, b3],
                       .discard [b0, b1, b2, b3]] })

/-! ## The FIFOs -/

/-- R228: both FIFOs are empty after reset, and push, pop, SyncW and SyncR keep a FIFO legal, for every capacity. -/
def Obligations.FifoStaysLegal : Prop :=
  State.reset.reqq = ⟨[], 0, 0⟩ ∧ State.reset.resq = ⟨[], 0, 0⟩
  ∧ ∀ (α : Type) (depth : Option Nat) (q : Fifo α) (v : α) (n : Nat), fifoLegal depth q →
    (fifoRoom depth q 1 = true → fifoLegal depth (fifoPush q v))
    ∧ (∀ h, fifoHead q = some h → fifoLegal depth (fifoPop depth q))
    ∧ fifoLegal depth (fifoSyncW n q) ∧ fifoLegal depth (fifoSyncR depth n q)

/-- R229 to R231: what Push, Pop and the two SYNC steps do to a FIFO's entries, its visible count and its freed
count; and the four steps of the agent SYNC on the machine: each moves the one count of its own queue that its rule
names, to the value drawn, and nothing else; with a draw the rule does not allow it makes no move (log 18). -/
def Obligations.FifoSteps : Prop :=
  ∀ (α : Type) (q : Fifo α) (v : α) (rest : List α) (n d : Nat) (s : State),
    (fifoPush q v).items = q.items ++ [v] ∧ (fifoPush q v).vis = q.vis ∧ (fifoPush q v).freed = q.freed
    ∧ (fifoRoom none q 1 = true) ∧ (fifoRoom (some d) q 1 = true ↔ q.items.length + q.freed < d)
    ∧ (q.items = v :: rest → (fifoHead q = some v ↔ 0 < q.vis))
    ∧ (q.items = v :: rest → 0 < q.vis →
      fifoPop none q = ⟨rest, q.vis - 1, q.freed⟩ ∧ fifoPop (some d) q = ⟨rest, q.vis - 1, q.freed + 1⟩)
    ∧ (q.vis < n → n ≤ q.items.length → fifoSyncW n q = ⟨q.items, n, q.freed⟩)
    ∧ (n < q.freed → fifoSyncR (some d) n q = ⟨q.items, q.vis, n⟩)
    ∧ fifoSyncR none n q = q
    ∧ (s.reqq.vis < n → n ≤ s.reqq.items.length →
      agentStep (.syncReqW n) s = .next { s with reqq := ⟨s.reqq.items, n, s.reqq.freed⟩ })
    ∧ (s.resq.vis < n → n ≤ s.resq.items.length →
      agentStep (.syncResW n) s = .next { s with resq := ⟨s.resq.items, n, s.resq.freed⟩ })
    ∧ (s.params.qdepthReq = some d → n < s.reqq.freed →
      agentStep (.syncReqR n) s = .next { s with reqq := ⟨s.reqq.items, s.reqq.vis, n⟩ })
    ∧ (s.params.qdepthRes = some d → n < s.resq.freed →
      agentStep (.syncResR n) s = .next { s with resq := ⟨s.resq.items, s.resq.vis, n⟩ })
    ∧ (n ≤ s.reqq.vis ∨ s.reqq.items.length < n → agentStep (.syncReqW n) s = .next s)
    ∧ (n ≤ s.resq.vis ∨ s.resq.items.length < n → agentStep (.syncResW n) s = .next s)
    ∧ (s.params.qdepthReq = none ∨ s.reqq.freed ≤ n → agentStep (.syncReqR n) s = .next s)
    ∧ (s.params.qdepthRes = none ∨ s.resq.freed ≤ n → agentStep (.syncResR n) s = .next s)

/-! ## The producer -/

/-- R235, R229: SUBMIT appends its entry and completes; it is held, with nothing pushed, while the producer sees REQQ
full, and refused when the delay does not fit the port. It reads neither OPEN nor CUR nor SS. Held requests wait in
`feWait` (log 16), and the oldest goes in when the producer sees room. -/
def Obligations.SubmitOutcomes : Prop :=
  ∀ (target : Byte) (settle : Int) (s : State) (r : PendingRequest) (others : List FeRequest),
    r = { target := target, settle := settle.toNat } →
    (0 ≤ settle → settle < 2 ^ s.params.delayW → s.feWait = [] →
      (∀ d, s.params.qdepthReq = some d → s.reqq.items.length + s.reqq.freed < d) →
      exec (.submit target settle) s =
        .next { s with reqq := ⟨s.reqq.items ++ [r], s.reqq.vis, s.reqq.freed⟩, ev := s.ev ++ [.push (.reqq r)],
                       fePort := .ok .unit })
    ∧ (0 ≤ settle → settle < 2 ^ s.params.delayW →
      (s.feWait ≠ [] ∨ ∃ d, s.params.qdepthReq = some d ∧ d ≤ s.reqq.items.length + s.reqq.freed) →
      exec (.submit target settle) s = .next { s with feWait := s.feWait ++ [.submit r], fePort := .held })
    ∧ ((settle < 0 ∨ (2 : Int) ^ s.params.delayW ≤ settle) → exec (.submit target settle) s = .refused .delayRange)
    ∧ (s.feWait = .submit r :: others → (∀ d, s.params.qdepthReq = some d → s.reqq.items.length + s.reqq.freed < d) →
      agentStep .frontEnd s =
        .next { s with reqq := ⟨s.reqq.items ++ [r], s.reqq.vis, s.reqq.freed⟩, ev := s.ev ++ [.push (.reqq r)],
                       fePort := .ok .unit, feWait := others })
    ∧ (∀ d, s.feWait = .submit r :: others → s.params.qdepthReq = some d →
      d ≤ s.reqq.items.length + s.reqq.freed → agentStep .frontEnd s = .next s)

/-- R236, R237: BATCH pushes one entry for activate and deactivate and two for pulse, when the producer sees room for
them, computed from the displayed state and the mask of its 1-based targets; the duration counts for the first half of
a pulse only. That the displayed state is CUR as it stands in this step, no older snapshot, is log 22. -/
def Obligations.BatchPushes : Prop :=
  ∀ (targets : List Int) (duration : Option Int) (s : State) (after : List PendingRequest → State),
    s.curv = true → (∀ t ∈ targets, 1 ≤ t ∧ t ≤ 8) →
    (∀ ms, duration = some ms → 0 ≤ ms ∧ ms < 2 ^ s.params.delayW) → s.feWait = [] →
    (∀ rs, after rs =
      { s with reqq := ⟨s.reqq.items ++ rs, s.reqq.vis, s.reqq.freed⟩,
               ev := s.ev ++ rs.map (fun r => .push (.reqq r)), fePort := .ok .unit }) →
    ∃ m : Byte, (∀ i : Nat, i < 8 → m.getLsbD i = decide ((i : Int) + 1 ∈ targets))
      ∧ ((∀ d, s.params.qdepthReq = some d → s.reqq.items.length + s.reqq.freed + 1 ≤ d) →
        exec (.batch .activate targets duration) s = .next (after [⟨s.cur ||| m, 0⟩])
        ∧ exec (.batch .deactivate targets duration) s = .next (after [⟨s.cur &&& ~~~m, 0⟩]))
      ∧ ((∀ d, s.params.qdepthReq = some d → s.reqq.items.length + s.reqq.freed + 2 ≤ d) →
        exec (.batch .pulse targets duration) s =
          .next (after [⟨s.cur ||| m, (duration.getD 0).toNat⟩, ⟨s.cur &&& ~~~m, 0⟩]))

/-- R236, R237 (f), R229, R235 with U11: where BATCH does not push at once. It is refused before a state is displayed,
and when its duration does not fit the port, whatever its action (log 15). A target outside 1 to 8 ends it with
E_RANGE_INDEX of the first such target, nothing pushed (the order is the list's, log 15; the info for a target below 1,
log 14). When the producer does not see room for all its entries, one for activate and deactivate and two for a pulse,
it is held whole, never half done (log 16); the step `frontEnd` pushes the oldest held batch when there is room, from
CUR as it stands then (log 16), and changes nothing while there is none. The target error comes at once also while
earlier requests are held, and shows at the port in place of `held` (log 37). -/
def Obligations.BatchStopsAndHolds : Prop :=
  ∀ (action : BatchAction) (pre post targets : List Int) (t : Int) (duration : Option Int) (ms need : Nat)
    (others : List FeRequest) (s : State),
    need = (match action with | .activate => 1 | .deactivate => 1 | .pulse => 2) →
    (s.curv = false → exec (.batch action targets duration) s = .refused .noDisplayedState)
    ∧ (s.curv = true → (∃ x, duration = some x ∧ (x < 0 ∨ (2 : Int) ^ s.params.delayW ≤ x)) →
      exec (.batch action targets duration) s = .refused .delayRange)
    ∧ (s.curv = true → (∀ x, duration = some x → 0 ≤ x ∧ x < 2 ^ s.params.delayW) →
      (∀ u ∈ pre, 1 ≤ u ∧ u ≤ 8) → (t < 1 ∨ 8 < t) →
      exec (.batch action (pre ++ t :: post) duration) s =
        .next { s with fePort := .err { cause := .rangeIndex, info := BitVec.ofInt 16 (t - 1) } })
    ∧ (s.curv = true → (∀ x, duration = some x → 0 ≤ x ∧ x < 2 ^ s.params.delayW) →
      (∀ u ∈ targets, 1 ≤ u ∧ u ≤ 8) →
      (s.feWait ≠ [] ∨ ∃ d, s.params.qdepthReq = some d ∧ d < s.reqq.items.length + s.reqq.freed + need) →
      exec (.batch action targets duration) s =
        .next { s with feWait := s.feWait ++ [.batch action targets (duration.getD 0).toNat], fePort := .held })
    ∧ (s.feWait = .batch action targets ms :: others → (∀ u ∈ targets, 1 ≤ u ∧ u ≤ 8) →
      (∀ d, s.params.qdepthReq = some d → s.reqq.items.length + s.reqq.freed + need ≤ d) →
      ∃ (m : Byte) (rs : List PendingRequest), (∀ i : Nat, i < 8 → m.getLsbD i = decide ((i : Int) + 1 ∈ targets))
        ∧ rs = (match action with
          | .activate => [⟨s.cur ||| m, 0⟩]
          | .deactivate => [⟨s.cur &&& ~~~m, 0⟩]
          | .pulse => [⟨s.cur ||| m, ms⟩, ⟨s.cur &&& ~~~m, 0⟩])
        ∧ agentStep .frontEnd s =
          .next { s with reqq := ⟨s.reqq.items ++ rs, s.reqq.vis, s.reqq.freed⟩,
                         ev := s.ev ++ rs.map (fun r => .push (.reqq r)), fePort := .ok .unit, feWait := others })
    ∧ (∀ d, s.feWait = .batch action targets ms :: others → s.params.qdepthReq = some d →
      d < s.reqq.items.length + s.reqq.freed + need → agentStep .frontEnd s = .next s)

/-! ## The workers -/

/-- R239: START_SW and START_DP leave the stopped state for the top of the loop; in any other state, or with the
transport in use for START_SW, they are refused. That START_DP completes at the host control port also while a direct
operation is in progress there, until that operation's next completion or, in PULSE, its next `busy`, is log 35. -/
def Obligations.StartWorkers : Prop :=
  ∀ s : State,
    (s.ss = .stopped → s.xs = .idle → s.ps = .idle →
      exec .startSw s = .next { s with ss := .top, hostPort := .ok .unit })
    ∧ (s.ss ≠ .stopped → exec .startSw s = .refused .notStopped)
    ∧ (s.ss = .stopped → (s.xs ≠ .idle ∨ s.ps ≠ .idle) → exec .startSw s = .refused .busy)
    ∧ (s.ds = .stopped → exec .startDp s = .next { s with ds := .top, hostPort := .ok .unit })
    ∧ (s.ds ≠ .stopped → exec .startDp s = .refused .notStopped)

/-- R240, R241, R242, R245, R247 with R229, R230: the steps of SWITCHER outside the exchange, for queues of every
capacity. INTR is read at the top only, as the worker's domain sampled it (log 9); with nothing visible, or with RESQ
full, it has no step (log 18). How INTR comes to the workers (R24, R284, log 9): HOST drives the level, and a step of
SYNC copies it into the one worker's sample. -/
def Obligations.SwitcherSteps : Prop :=
  ∀ s : State,
    (s.ss = .top → s.intrSw = true →
      agentStep .switcher s = .next { s with doneSw := true, ss := .exited, ev := s.ev ++ [.exited .sw] })
    ∧ (s.ss = .top → s.intrSw = false → agentStep .switcher s = .next { s with ss := .wait })
    ∧ (s.ss = .wait → agentStep .pollSw s = .next { s with ss := .top })
    ∧ (∀ r rest, s.ss = .wait → s.reqq.items = r :: rest → 0 < s.reqq.vis → s.params.qdepthReq = none →
      agentStep .switcher s =
        .next { s with lreq := r, ss := .exch, reqq := ⟨rest, s.reqq.vis - 1, s.reqq.freed⟩,
                       ev := s.ev ++ [.pop (.reqq r)] })
    ∧ (∀ r rest d, s.ss = .wait → s.reqq.items = r :: rest → 0 < s.reqq.vis → s.params.qdepthReq = some d →
      agentStep .switcher s =
        .next { s with lreq := r, ss := .exch, reqq := ⟨rest, s.reqq.vis - 1, s.reqq.freed + 1⟩,
                       ev := s.ev ++ [.pop (.reqq r)] })
    ∧ (s.ss = .wait → s.reqq.vis = 0 → agentStep .switcher s = .next s)
    ∧ (s.ss = .push → (∀ d, s.params.qdepthRes = some d → s.resq.items.length + s.resq.freed < d) →
      agentStep .switcher s =
        .next { s with ss := .settle, resq := ⟨s.resq.items ++ [s.lres], s.resq.vis, s.resq.freed⟩,
                       ev := s.ev ++ [.push (.resq s.lres)] })
    ∧ (∀ d, s.ss = .push → s.params.qdepthRes = some d → d ≤ s.resq.items.length + s.resq.freed →
      agentStep .switcher s = .next s)
    ∧ (s.ss = .settle →
      agentStep .switcher s = .next { s with ss := .top, ev := s.ev ++ [.wait .settle s.lreq.settle] })
    ∧ (s.ss = .stopped ∨ s.ss = .exited → agentStep .switcher s = .next s)
    ∧ (∀ level, agentStep (.driveIntr level) s = .next { s with intr := level })
    ∧ agentStep (.sampleIntr .sw) s = .next { s with intrSw := s.intr }
    ∧ agentStep (.sampleIntr .dp) s = .next { s with intrDp := s.intr }

/-- R248 with R242 to R247: one iteration of SWITCHER that serves a request whose answer carries the response byte of
SETPORT: the pop, the SETPORT frame to CARD_ID, the exchange, the echo in LRES and pushed into RESQ, the settle wait,
and the top again. The queues are unbounded here, the architecture's own capacity (R227). -/
def Obligations.SwIterServes : Prop :=
  ∀ (r : PendingRequest) (queue : List PendingRequest) (c q : Quad) (rest : List LineAct) (s : State),
    s.ss = .top → s.intrSw = false → s.reqq.items = r :: queue → 0 < s.reqq.vis →
    s.params.qdepthReq = none → s.params.qdepthRes = none →
    s.xs = .idle → s.ps = .idle → s.cop = .none → s.isOpen = true → rxbUsable s →
    c.b0 = 0xFC → checkPasses s c → s.lineIn = quadActs c ++ rest →
    q = requestQuad 3 s.params.cardId r.target →
    exec .swIter s =
      .next { s with
        txf := q, rxf := c, txfWritten := true, rxfWritten := true,
        ch := c, cn := 4, disc := 0, xres := .ok, rxb := [], txb := [],
        lreq := r, lres := c.b2, lineIn := rest,
        reqq := ⟨queue, s.reqq.vis - 1, s.reqq.freed⟩,
        resq := ⟨s.resq.items ++ [c.b2], s.resq.vis, s.resq.freed⟩,
        ev := s.ev ++ [.pop (.reqq r)] ++ exchangeEvents s.params q c
          ++ [.push (.resq c.b2), .wait .settle r.settle] }

/-- R244, R280 (b), R337: one iteration of SWITCHER whose SETALL fails, with each of the five errors R244 names: no
answer, a closed transport, a candidate with another command byte, a candidate whose checksum byte is wrong while
CSUM_VERIFY = 1, and one garbage chunk more than MAX_DISCARD. The error is appended to ERRLOG, nothing is pushed, the
settle delay is not waited for, and the loop is back at its top. That a closed transport leaves the frame in TXF is
log 12. -/
def Obligations.SwIterLogsErrors : Prop :=
  ∀ (r : PendingRequest) (queue : List PendingRequest) (q c : Quad) (gs : List Quad) (rest : List LineAct) (s : State)
    (e : Error),
    s.ss = .top → s.intrSw = false → s.reqq.items = r :: queue → 0 < s.reqq.vis → s.params.qdepthReq = none →
    s.xs = .idle → s.ps = .idle → s.cop = .none → q = requestQuad 3 s.params.cardId r.target →
    (s.isOpen = true → s.lineIn = .silence :: rest → e = { cause := .connTrunc, info := 0 } →
      exec .swIter s =
        .next { s with
          txf := q, txfWritten := true, cn := 0, disc := 0, xres := .err e, rxb := [], txb := [], lreq := r,
          lineIn := rest,
          reqq := ⟨queue, s.reqq.vis - 1, s.reqq.freed⟩, errlog := s.errlog ++ [e],
          ev := s.ev ++ [.pop (.reqq r)] ++ silentEvents s.params q ++ [.err e] })
    ∧ (s.isOpen = false → e = { cause := .connClosed, info := 0 } →
      exec .swIter s =
        .next { s with
          txf := q, txfWritten := true, lreq := r,
          reqq := ⟨queue, s.reqq.vis - 1, s.reqq.freed⟩, errlog := s.errlog ++ [e],
          ev := s.ev ++ [.pop (.reqq r), .err e] })
    ∧ (s.isOpen = true → rxbUsable s → 0xF0 ≤ c.b0.toNat → c.b0 ≠ 0xFC → checkPasses s c →
      s.lineIn = quadActs c ++ rest → e = { cause := .proto, info := (0xFC : Byte) ++ c.b0 } →
      exec .swIter s =
        .next { s with
          txf := q, rxf := c, txfWritten := true, rxfWritten := true,
          ch := c, cn := 4, disc := 0, xres := .ok, rxb := [], txb := [], lreq := r, lineIn := rest,
          reqq := ⟨queue, s.reqq.vis - 1, s.reqq.freed⟩, errlog := s.errlog ++ [e],
          ev := s.ev ++ [.pop (.reqq r)] ++ exchangeEvents s.params q c ++ [.err e] })
    ∧ (s.isOpen = true → rxbUsable s → 0xF0 ≤ c.b0.toNat → s.csumVerify = true → c.b3 ≠ c.b0 ^^^ c.b1 ^^^ c.b2 →
      s.lineIn = quadActs c ++ rest → e = { cause := .csum, info := (c.b0 ^^^ c.b1 ^^^ c.b2) ++ c.b3 } →
      exec .swIter s =
        .next { s with
          txf := q, rxf := c, txfWritten := true, rxfWritten := true,
          ch := c, cn := 4, disc := 0, xres := .err e, rxb := [], txb := [], lreq := r,
          lineIn := rest, reqq := ⟨queue, s.reqq.vis - 1, s.reqq.freed⟩, errlog := s.errlog ++ [e],
          ev := s.ev ++ [.pop (.reqq r)] ++ exchangeEvents s.params q c ++ [.err e] })
    ∧ (s.isOpen = true → rxbUsable s → s.maxDiscard = some gs.length → (∀ g ∈ gs, g.b0.toNat < 0xF0) →
      c.b0.toNat < 0xF0 → s.lineIn = gs.flatMap quadActs ++ quadActs c ++ rest →
      e = { cause := .desync, info := BitVec.ofNat 16 gs.length } →
      exec .swIter s =
        .next { s with
          txf := q, txfWritten := true, ch := c, cn := 4, disc := gs.length, xres := .err e, rxb := [], txb := [],
          lreq := r, lineIn := rest, reqq := ⟨queue, s.reqq.vis - 1, s.reqq.freed⟩, errlog := s.errlog ++ [e],
          ev := s.ev ++ [.pop (.reqq r), .flush, .tx q.b0 q.b1 q.b2 q.b3] ++ gs.flatMap discardEvents
            ++ [.rxTake c.b0, .rxTake c.b1, .rxTake c.b2, .rxTake c.b3, .chunkDone c.toList,
              .wait .pace s.params.tPaceMs, .err e] })

/-- R240, R241, R242, R253 with log 17: an iteration of SWITCHER on an empty queue is the poll timeout and changes
nothing; with INTR seen at the top it exits; stopped or exited it has no step. And R242's liveness: in every fair run of
atomic steps without a reset (log 24 says what fair is), an entry that is visible while SWITCHER polls is popped in the
end unless SWITCHER exits first, however often the Timeout sends it round its loop. -/
def Obligations.SwIterIdlesAndExits : Prop :=
  (∀ s : State,
    (s.ss = .top → s.intrSw = false → s.reqq.vis = 0 → exec .swIter s = .next s)
    ∧ (s.ss = .top → s.intrSw = true →
      exec .swIter s = .next { s with doneSw := true, ss := .exited, ev := s.ev ++ [.exited .sw] })
    ∧ (s.ss = .stopped ∨ s.ss = .exited → exec .swIter s = .next s))
  ∧ (∀ (schedule : Nat → Action) (states : Nat → State) (n : Nat) (r : PendingRequest) (rest : List PendingRequest),
    IsRun schedule states → Fair schedule states → (∀ k, ∃ a, schedule k = .agent a ∧ a ≠ .reset) →
    ((states n).ss = .top ∨ (states n).ss = .wait) → 0 < (states n).reqq.vis → (states n).reqq.items = r :: rest →
    ∃ k, n ≤ k ∧ ((states k).ss = .exited
      ∨ (schedule k = .agent .switcher ∧ (states k).ss = .wait ∧ (states (k + 1)).ss = .exch
        ∧ (states (k + 1)).lreq = r ∧ (states (k + 1)).ev = (states k).ev ++ [.pop (.reqq r)])))

/-- R249 to R252 with log 9 and log 17: one iteration of DISPLAY delivers the oldest visible confirmation to CUR and to
the subscribers in one step, or polls, or exits on INTR at its top; and the atomic steps it is made of. And R250's "same
discipline" as SWITCHER's: in every fair run of atomic steps without a reset (log 24), a confirmation that is visible
while DISPLAY polls is delivered in the end unless DISPLAY exits first. -/
def Obligations.DpIterOutcomes : Prop :=
  (∀ s : State,
    (∀ v rest, s.ds = .top → s.intrDp = false → s.resq.items = v :: rest → 0 < s.resq.vis →
      s.params.qdepthRes = none →
      exec .dpIter s =
        .next { s with cur := v, curv := true, resq := ⟨rest, s.resq.vis - 1, s.resq.freed⟩,
                       ev := s.ev ++ [.pop (.resq v), .notify v] })
    ∧ (∀ v rest d, s.ds = .top → s.intrDp = false → s.resq.items = v :: rest → 0 < s.resq.vis →
      s.params.qdepthRes = some d →
      exec .dpIter s =
        .next { s with cur := v, curv := true, resq := ⟨rest, s.resq.vis - 1, s.resq.freed + 1⟩,
                       ev := s.ev ++ [.pop (.resq v), .notify v] })
    ∧ (s.ds = .top → s.intrDp = false → s.resq.vis = 0 → exec .dpIter s = .next s)
    ∧ (s.ds = .top → s.intrDp = true →
      exec .dpIter s = .next { s with doneDp := true, ds := .exited, ev := s.ev ++ [.exited .dp] })
    ∧ (s.ds = .stopped ∨ s.ds = .exited → exec .dpIter s = .next s)
    ∧ (s.ds = .top → s.intrDp = true →
      agentStep .display s = .next { s with doneDp := true, ds := .exited, ev := s.ev ++ [.exited .dp] })
    ∧ (s.ds = .top → s.intrDp = false → agentStep .display s = .next { s with ds := .wait })
    ∧ (∀ v rest freed, s.ds = .wait → s.resq.items = v :: rest → 0 < s.resq.vis →
      freed = (match s.params.qdepthRes with | none => s.resq.freed | some _ => s.resq.freed + 1) →
      agentStep .display s =
        .next { s with ds := .top, cur := v, curv := true, resq := ⟨rest, s.resq.vis - 1, freed⟩,
                       ev := s.ev ++ [.pop (.resq v), .notify v] })
    ∧ (s.ds = .wait → s.resq.vis = 0 → agentStep .display s = .next s)
    ∧ (s.ds = .wait → agentStep .pollDp s = .next { s with ds := .top })
    ∧ (s.ds = .stopped ∨ s.ds = .exited → agentStep .display s = .next s))
  ∧ (∀ (schedule : Nat → Action) (states : Nat → State) (n : Nat) (v : Byte) (rest : List Byte),
    IsRun schedule states → Fair schedule states → (∀ k, ∃ a, schedule k = .agent a ∧ a ≠ .reset) →
    ((states n).ds = .top ∨ (states n).ds = .wait) → 0 < (states n).resq.vis → (states n).resq.items = v :: rest →
    ∃ k, n ≤ k ∧ ((states k).ds = .exited
      ∨ (schedule k = .agent .display ∧ (states k).ds = .wait ∧ (states (k + 1)).cur = v ∧ (states (k + 1)).curv = true
        ∧ (states (k + 1)).ev = (states k).ev ++ [.pop (.resq v), .notify v])))

/-! ## The whole machine -/

/-- Fetching: an entry of the schedule that is a frame runs the instruction its four bytes decode to, an operation
asked by name runs that operation, an agent's step is that step, and an empty schedule changes nothing; the entry is
taken off first (log 1). A byte sequence of another length than four is the machine's one fault (R103). -/
def Obligations.StepRunsInstruction : Prop :=
  ∀ (s : State) (rest : List Action),
    (∀ bs i, s.agenda = .frame bs :: rest → decode bs = .ok i → step s = exec i { s with agenda := rest })
    ∧ (∀ i, s.agenda = .op i :: rest → step s = exec i { s with agenda := rest })
    ∧ (∀ a, s.agenda = .agent a :: rest → step s = agentStep a { s with agenda := rest })
    ∧ (s.agenda = [] → step s = .next s)
    ∧ (∀ bs, s.agenda = .frame bs :: rest → bs.length ≠ 4 → step s = .fault (.frameLength bs.length))

/-- R40: the values the spec gives for reset, and that the parameters' own reset values are followed. -/
def Obligations.ResetValues : Prop :=
  ∀ p : Params, ∃ s : State, s = State.resetWith p
    ∧ s.xs = .idle ∧ s.ps = .idle ∧ s.ss = .stopped ∧ s.ds = .stopped ∧ s.isOpen = false
    ∧ s.doneSw = false ∧ s.doneDp = false ∧ s.cn = 0 ∧ s.disc = 0 ∧ s.xres = .none ∧ s.rxb = [] ∧ s.txb = []
    ∧ s.reqq = ⟨[], 0, 0⟩ ∧ s.resq = ⟨[], 0, 0⟩ ∧ s.errlog = [] ∧ s.ev = [] ∧ s.intr = false
    ∧ (p.curReset = none → s.curv = false) ∧ (∀ b, p.curReset = some b → s.cur = b ∧ s.curv = true)
    ∧ s.csumVerify = p.csumVerifyReset ∧ s.maxDiscard = p.maxDiscardReset ∧ s.params = p
    ∧ State.reset = State.resetWith Params.defaults
    ∧ Params.defaults.csumVerifyReset = false ∧ Params.defaults.maxDiscardReset = none

/-- R310, R311, R315: the reset input puts every register at its reset value and keeps the parameters (that the
environment's inputs and schedule stay is log 19, and the count of free values drawn log 7); after reset no sequencer,
timer or synchroniser has a step of its own and an arriving byte is dropped, so no such step changes anything. TXF and
RXF are unwritten after reset (R29, R40; the model's fields that say so: log 7). -/
def Obligations.ResetIsQuiet : Prop :=
  (∀ s : State, agentStep .reset s =
    .next { State.resetWith s.params with
            intr := s.intr, lineOpenOk := s.lineOpenOk, agenda := s.agenda, lineIn := s.lineIn,
            drawn := s.drawn })
  ∧ (∀ (p : Params) (b : Byte) (n : Nat) (a : AgentStep),
    a ∈ [AgentStep.own, .switcher, .display, .frontEnd, .arrive b, .readTimeout, .pollSw, .pollDp,
      .syncReqW n, .syncReqR n, .syncResW n, .syncResR n] →
    agentStep a (State.resetWith p) = .next (State.resetWith p))
  ∧ (∀ p : Params, (State.resetWith p).txfWritten = false ∧ (State.resetWith p).rxfWritten = false)

/-- R91, R99, R103, R112: any four bytes decode, the rows of the table match every command byte exactly once, and a
byte sequence of another length is rejected by name. -/
def Obligations.DecoderIsTotal : Prop :=
  (∀ b0 b1 b2 b3 : Byte, ∃ i, decode [b0, b1, b2, b3] = .ok i)
  ∧ (∀ c : Byte, frameRows.countP (fun r => r.hits c) = 1)
  ∧ (∀ bs : List Byte, bs.length ≠ 4 → decode bs = .error (.length bs.length))

/-- Words written out from R95, R96 and R91 decode to the instructions they stand for. -/
def Obligations.WrittenWordsDecode : Prop :=
  decodeTableWord 32 0x03000102 = some (.setport 0x00 0x01 0x02)
  ∧ decodeTableWord 32 0x0600080E = some (.setsingle 0x00 0x08 0x0E)
  ∧ decodeTableWord 32 0xFD0005F8 = some (.rGetport 0x00 0x05 0xF8)
  ∧ decodeTableWord 32 0x0B112233 = some (.rsvdLow0A0B 1 0x11 0x22 0x33)
  ∧ decodeTableWord 32 0xEF0000EF = some (.rsvdMidE0EF 0xF 0x00 0x00 0xEF)
  ∧ decodeTableWord 32 0xF3010203 = some (.rsvdHighF0F3 3 0x01 0x02 0x03)

/-- R95, R96, R91: decoding and encoding are inverse, for all thirty frame instructions and all their operands, both
ways; the port operations have no encoding (R112). -/
def Obligations.DecodeEncodeAgree : Prop :=
  (∀ (i : Instr) (bs : List Byte), encode i = some bs → decode bs = .ok i)
  ∧ (∀ (bs : List Byte) (i : Instr), decode bs = .ok i → encode i = some bs)

/-- R95: a request frame is well formed exactly when its checksum byte is the exclusive-or of the other three; the
bytes that ENCODE makes of a request code are the encoding of a well-formed request frame. -/
def Obligations.RequestWellFormed : Prop :=
  (∀ (i : Instr) (b0 b1 b2 b3 : Byte), encode i = some [b0, b1, b2, b3] → b0.toNat ≤ 8 →
    (i.wellFormed = true ↔ b3 = b0 ^^^ b1 ^^^ b2))
  ∧ (∀ c a d : Byte, c.toNat ≤ 8 →
    ∃ i : Instr, i.wellFormed = true ∧ encode i = some (frameBytes c a d).toList)

/-- The two invariants below hold after reset, for every instance: whatever the parameters of R9 are (log 6). The
machine's own reset state is that of their defaults. -/
def Obligations.InvariantsAtReset : Prop :=
  (∀ p : Params, MachineInv (State.resetWith p) ∧ HistoryInv (State.resetWith p))
  ∧ State.reset = State.resetWith Params.defaults

/-- Every step keeps `MachineInv` (R21, R29, R62, R64, R167, R176, R180, R200, R226, R228, R240, R243, R249, R290): the
counters stay in range, the state registers agree with each other and with who holds the transport, and the buffers
and queues stay within their capacities; the request of an exchange and an accepted response have been written. -/
def Obligations.MachineInvKept : Prop :=
  ∀ s t : State, MachineInv s → step s = .next t → MachineInv t

/-- R74, R232, R244, R251: FIFO end to end. Every step keeps: what was pushed into a queue is what was popped from it,
in order, followed by what it still holds; what DISPLAY popped is what it notified, and CUR is the last of it; the
logged errors are ERRLOG. -/
def Obligations.HistoryInvKept : Prop :=
  ∀ s t : State, HistoryInv s → step s = .next t → HistoryInv t

/-- R291, R335, R24, R189, R272: only DISPLAY writes CUR and CURV, and OPEN is changed by CONNECT and SHUTDOWN only (no
error closes the connection); reset aside, which restores both. -/
def Obligations.WhoWritesCurAndOpen : Prop :=
  (∀ (i : Instr) (s t : State), i ≠ .dpIter → exec i s = .next t → t.cur = s.cur ∧ t.curv = s.curv)
  ∧ (∀ (a : AgentStep) (s t : State), a ≠ .display → a ≠ .reset → agentStep a s = .next t →
    t.cur = s.cur ∧ t.curv = s.curv)
  ∧ (∀ (i : Instr) (s t : State), i ≠ .connect → i ≠ .shutdown → exec i s = .next t → t.isOpen = s.isOpen)
  ∧ (∀ (a : AgentStep) (s t : State), a ≠ .reset → agentStep a s = .next t → t.isOpen = s.isOpen)

/-- R26, R13, R311: ERRLOG and EV only grow, and nothing clears them but reset; the parameters never change. -/
def Obligations.LogsOnlyGrow : Prop :=
  ∀ s t : State, step s = .next t →
    t.params = s.params
    ∧ ((∀ rest, s.agenda ≠ .agent .reset :: rest) →
      (∃ l, t.errlog = s.errlog ++ l) ∧ (∃ l, t.ev = s.ev ++ l))

/-- R171 to R184 (log 3): a whole direct operation is its first atomic step (log 33) followed by atomic steps of its
owner, of LINE and of TIMER; the state it ends in is theirs, but for `lineIn`, from which the whole operation took
LINE's and TIMER's acts. -/
def Obligations.WholeOperationIsItsSteps : Prop :=
  ∀ (r : ClientRequest) (s t : State), runRequest r s = .next t →
    ∃ as : List AgentStep, (∀ a ∈ as, isExchangeStep a = true)
      ∧ runAgents (.issue r :: as) s = some { t with lineIn := s.lineIn }

/-- R233 (informative, log 26): the Gray code's inverse, and the full test of the dual-clock FIFO: the write pointer is
a whole lap ahead of the synchronised read pointer. -/
def Obligations.GrayPointers : Prop :=
  (∀ (w : Nat) (b : BitVec w), ungray (gray b) = b)
  ∧ (∀ (aw : Nat) (q : AsyncFifo aw Byte) (r : BitVec (aw + 1)), 1 ≤ aw → q.wq2rgray = gray r →
    (asyncFull q = true ↔ q.wbin = r + BitVec.ofNat (aw + 1) (2 ^ aw)))

/-- R208, R209 (b), (c), (d), R201: PULSE that fails part way. A wrong answer to its QUERY ends it with E_PROTO and
nothing is written; silence or a wrong answer in its second exchange ends it without a hold and without a third frame,
PV holding the on-vector; silence or a wrong answer in its third exchange ends it after the hold, PV holding the
off-vector. (Silence in the first exchange: `NoAnswerFails`.) -/
def Obligations.PulseFailsPartWay : Prop :=
  ∀ (card : Int) (c1 c2 w q1 q2 q3 : Quad) (rest more : List LineAct) (s : State) (e : Error),
    0 ≤ card → card ≤ 255 → hostReady s → s.isOpen = true → rxbUsable s →
    checkPasses s c1 → checkPasses s c2 → checkPasses s w → s.lineIn = quadActs c1 ++ rest →
    q1 = requestQuad 2 (BitVec.ofInt 8 card) 0 →
    q2 = requestQuad 3 (BitVec.ofInt 8 card) (c1.b2 ||| 0xE0) →
    q3 = requestQuad 3 (BitVec.ofInt 8 card) (c1.b2 &&& 0x1F) →
    (0xF0 ≤ c1.b0.toNat → c1.b0 ≠ 0xFD → exec (.pulse card) s =
      .next { exchanged q1 c1 s with
              hostPort := .err { cause := .proto, info := (0xFD : Byte) ++ c1.b0 }, lineIn := rest })
    ∧ (c1.b0 = 0xFD → rest = .silence :: more → e = { cause := .connTrunc, info := 0 } → exec (.pulse card) s =
      .next { s with
        txf := q2, rxf := c1, txfWritten := true, rxfWritten := true,
        ch := c1, cn := 0, disc := 0, xres := .err e, rxb := [], txb := [], cop := .none,
        pv := c1.b2 ||| 0xE0, lineIn := more, hostPort := .err e,
        ev := s.ev ++ exchangeEvents s.params q1 c1 ++ silentEvents s.params q2 })
    ∧ (c1.b0 = 0xFD → rest = quadActs w ++ more → 0xF0 ≤ w.b0.toNat → w.b0 ≠ 0xFC →
      e = { cause := .proto, info := (0xFC : Byte) ++ w.b0 } → exec (.pulse card) s =
      .next { s with
        txf := q2, rxf := w, txfWritten := true, rxfWritten := true,
        ch := w, cn := 4, disc := 0, xres := .ok, rxb := [], txb := [], cop := .none,
        pv := c1.b2 ||| 0xE0, lineIn := more, hostPort := .err e,
        ev := s.ev ++ exchangeEvents s.params q1 c1 ++ exchangeEvents s.params q2 w })
    ∧ (c1.b0 = 0xFD → c2.b0 = 0xFC → rest = quadActs c2 ++ .silence :: more → e = { cause := .connTrunc, info := 0 } →
      exec (.pulse card) s =
      .next { s with
        txf := q3, rxf := c2, txfWritten := true, rxfWritten := true,
        ch := c2, cn := 0, disc := 0, xres := .err e, rxb := [], txb := [], cop := .none,
        pv := c1.b2 &&& 0x1F, lineIn := more, hostPort := .err e,
        ev := s.ev ++ exchangeEvents s.params q1 c1 ++ exchangeEvents s.params q2 c2
          ++ [.wait .pulseHold s.params.tPulseMs] ++ silentEvents s.params q3 })
    ∧ (c1.b0 = 0xFD → c2.b0 = 0xFC → rest = quadActs c2 ++ quadActs w ++ more → 0xF0 ≤ w.b0.toNat → w.b0 ≠ 0xFC →
      e = { cause := .proto, info := (0xFC : Byte) ++ w.b0 } → exec (.pulse card) s =
      .next { s with
        txf := q3, rxf := w, txfWritten := true, rxfWritten := true,
        ch := w, cn := 4, disc := 0, xres := .ok, rxb := [], txb := [], cop := .none,
        pv := c1.b2 &&& 0x1F, lineIn := more, hostPort := .err e,
        ev := s.ev ++ exchangeEvents s.params q1 c1 ++ exchangeEvents s.params q2 c2
          ++ [.wait .pulseHold s.params.tPulseMs] ++ exchangeEvents s.params q3 w })

/-- R185, R329: with MAX_DISCARD = inf an exchange need not end. From every state in which an exchange begins a chunk
read on an open transport, of HOST that holds it or of SWITCHER in `S_EXCH`, there is an endless run of the machine's
own steps and of the environment's, nothing being asked from outside, in which XS stays `X_READ` and SS where it is, and
the discard count passes every bound. The run is fair: every step of the sequencers, of LINE, of TIMER and of SYNC that
stays enabled is taken, and no poll timeout starves a Pop (R242, R250; log 24 says which steps these are). -/
def Obligations.EndlessResyncIsARun : Prop :=
  ∀ s : State, hostHolds s = true ∨ s.ss = .exch →
    s.xs = .read → s.cn = 0 → s.rxb = [] → s.isOpen = true → rxbUsable s → s.maxDiscard = none →
    ∃ (schedule : Nat → Action) (states : Nat → State),
      states 0 = s ∧ IsRun schedule states
      ∧ (∀ k, ∃ a, schedule k = .agent a ∧ isFromOutside a = false)
      ∧ (∀ k, (states k).xs = .read ∧ (states k).ss = s.ss)
      ∧ (∀ n, ∃ k, (states k).disc = s.disc + n)
      ∧ Fair schedule states

end
end

