-- ==== Sys2Proof/Laws/Operands.lean ====
section
/-! SUPPORT. Small lemmas about the operand forms and predicates, each said once. -/

namespace Sys2Proof.Machine

/-- UNPACK undoes PACK. -/
@[simp] theorem unpack_pack : ∀ v : RelayVec, unpack (pack v) = v := by decide

/-- PACK undoes UNPACK. -/
@[simp] theorem pack_unpack : ∀ b : Byte, pack (unpack b) = b := by decide

/-- A candidate byte is a response byte. -/
theorem isResp_of_isCandidate : ∀ b : Byte, isCandidate b = true → isResp b = true := by decide

/-- `255 - (255 - c) = c`. -/
@[simp] theorem reqCode_respCode : ∀ c : Byte, reqCode (respCode c) = c := by decide

/-- The 8-bit complement. -/
theorem respCode_eq_not : ∀ c : Byte, respCode c = ~~~c := by decide

/-- An in-range integer and the byte it stands for. -/
theorem byteOfInt_toNat {v : Int} (h : byteInRange v = true) : (byteOfInt v).toNat = v.toNat := by
  simp [byteInRange] at h
  have := BitVec.toNat_ofInt (n := 8) (i := v)
  simp only [byteOfInt, this]
  congr 1
  exact Int.emod_eq_of_lt h.1 (by omega)

/-- A byte is an integer in range. -/
@[simp] theorem byteInRange_toNat (b : Byte) : byteInRange (b.toNat : Int) = true := by
  have := b.isLt
  simp [byteInRange]
  omega

/-- The byte of a byte. -/
@[simp] theorem byteOfInt_cast (b : Byte) : byteOfInt (b.toNat : Int) = b := by
  simp [byteOfInt]

end Sys2Proof.Machine
end

