-- ==== Sys2Proof/Laws/State.lean ====
section
/-! SUPPORT. One lemma per field per named update of State: what the update makes of the field, true by
rfl (for a control-register read, which may draw a free value, by cases). -/

namespace Sys2Proof.Machine

/-! ## emit -/

@[simp] theorem emit_txf (e : Event) (s : State) : (emit e s).txf = s.txf := rfl
@[simp] theorem emit_rxf (e : Event) (s : State) : (emit e s).rxf = s.rxf := rfl
@[simp] theorem emit_ch (e : Event) (s : State) : (emit e s).ch = s.ch := rfl
@[simp] theorem emit_cn (e : Event) (s : State) : (emit e s).cn = s.cn := rfl
@[simp] theorem emit_disc (e : Event) (s : State) : (emit e s).disc = s.disc := rfl
@[simp] theorem emit_xres (e : Event) (s : State) : (emit e s).xres = s.xres := rfl
@[simp] theorem emit_lreq (e : Event) (s : State) : (emit e s).lreq = s.lreq := rfl
@[simp] theorem emit_lres (e : Event) (s : State) : (emit e s).lres = s.lres := rfl
@[simp] theorem emit_pv (e : Event) (s : State) : (emit e s).pv = s.pv := rfl
@[simp] theorem emit_cur (e : Event) (s : State) : (emit e s).cur = s.cur := rfl
@[simp] theorem emit_rxb (e : Event) (s : State) : (emit e s).rxb = s.rxb := rfl
@[simp] theorem emit_txb (e : Event) (s : State) : (emit e s).txb = s.txb := rfl
@[simp] theorem emit_xs (e : Event) (s : State) : (emit e s).xs = s.xs := rfl
@[simp] theorem emit_ps (e : Event) (s : State) : (emit e s).ps = s.ps := rfl
@[simp] theorem emit_ss (e : Event) (s : State) : (emit e s).ss = s.ss := rfl
@[simp] theorem emit_ds (e : Event) (s : State) : (emit e s).ds = s.ds := rfl
@[simp] theorem emit_isOpen (e : Event) (s : State) : (emit e s).isOpen = s.isOpen := rfl
@[simp] theorem emit_intr (e : Event) (s : State) : (emit e s).intr = s.intr := rfl
@[simp] theorem emit_doneSw (e : Event) (s : State) : (emit e s).doneSw = s.doneSw := rfl
@[simp] theorem emit_doneDp (e : Event) (s : State) : (emit e s).doneDp = s.doneDp := rfl
@[simp] theorem emit_curv (e : Event) (s : State) : (emit e s).curv = s.curv := rfl
@[simp] theorem emit_csumVerify (e : Event) (s : State) : (emit e s).csumVerify = s.csumVerify := rfl
@[simp] theorem emit_maxDiscard (e : Event) (s : State) : (emit e s).maxDiscard = s.maxDiscard := rfl
@[simp] theorem emit_errlog (e : Event) (s : State) : (emit e s).errlog = s.errlog := rfl
@[simp] theorem emit_reqq (e : Event) (s : State) : (emit e s).reqq = s.reqq := rfl
@[simp] theorem emit_resq (e : Event) (s : State) : (emit e s).resq = s.resq := rfl
@[simp] theorem emit_ev (e : Event) (s : State) : (emit e s).ev = s.ev ++ [e] := rfl
@[simp] theorem emit_params (e : Event) (s : State) : (emit e s).params = s.params := rfl
@[simp] theorem emit_cop (e : Event) (s : State) : (emit e s).cop = s.cop := rfl
@[simp] theorem emit_intrSw (e : Event) (s : State) : (emit e s).intrSw = s.intrSw := rfl
@[simp] theorem emit_intrDp (e : Event) (s : State) : (emit e s).intrDp = s.intrDp := rfl
@[simp] theorem emit_lineOpenOk (e : Event) (s : State) : (emit e s).lineOpenOk = s.lineOpenOk := rfl
@[simp] theorem emit_hostPort (e : Event) (s : State) : (emit e s).hostPort = s.hostPort := rfl
@[simp] theorem emit_codecPort (e : Event) (s : State) : (emit e s).codecPort = s.codecPort := rfl
@[simp] theorem emit_fePort (e : Event) (s : State) : (emit e s).fePort = s.fePort := rfl
@[simp] theorem emit_regPort (e : Event) (s : State) : (emit e s).regPort = s.regPort := rfl
@[simp] theorem emit_txfWritten (e : Event) (s : State) : (emit e s).txfWritten = s.txfWritten := rfl
@[simp] theorem emit_rxfWritten (e : Event) (s : State) : (emit e s).rxfWritten = s.rxfWritten := rfl
@[simp] theorem emit_drawn (e : Event) (s : State) : (emit e s).drawn = s.drawn := rfl
@[simp] theorem emit_feWait (e : Event) (s : State) : (emit e s).feWait = s.feWait := rfl
@[simp] theorem emit_agenda (e : Event) (s : State) : (emit e s).agenda = s.agenda := rfl
@[simp] theorem emit_lineIn (e : Event) (s : State) : (emit e s).lineIn = s.lineIn := rfl

/-! ## endOp -/

@[simp] theorem endOp_txf (s : State) : (endOp s).txf = s.txf := rfl
@[simp] theorem endOp_rxf (s : State) : (endOp s).rxf = s.rxf := rfl
@[simp] theorem endOp_ch (s : State) : (endOp s).ch = s.ch := rfl
@[simp] theorem endOp_cn (s : State) : (endOp s).cn = s.cn := rfl
@[simp] theorem endOp_disc (s : State) : (endOp s).disc = s.disc := rfl
@[simp] theorem endOp_xres (s : State) : (endOp s).xres = s.xres := rfl
@[simp] theorem endOp_lreq (s : State) : (endOp s).lreq = s.lreq := rfl
@[simp] theorem endOp_lres (s : State) : (endOp s).lres = s.lres := rfl
@[simp] theorem endOp_pv (s : State) : (endOp s).pv = s.pv := rfl
@[simp] theorem endOp_cur (s : State) : (endOp s).cur = s.cur := rfl
@[simp] theorem endOp_rxb (s : State) : (endOp s).rxb = s.rxb := rfl
@[simp] theorem endOp_txb (s : State) : (endOp s).txb = s.txb := rfl
@[simp] theorem endOp_xs (s : State) : (endOp s).xs = s.xs := rfl
@[simp] theorem endOp_ps (s : State) : (endOp s).ps = .idle := rfl
@[simp] theorem endOp_ss (s : State) : (endOp s).ss = s.ss := rfl
@[simp] theorem endOp_ds (s : State) : (endOp s).ds = s.ds := rfl
@[simp] theorem endOp_isOpen (s : State) : (endOp s).isOpen = s.isOpen := rfl
@[simp] theorem endOp_intr (s : State) : (endOp s).intr = s.intr := rfl
@[simp] theorem endOp_doneSw (s : State) : (endOp s).doneSw = s.doneSw := rfl
@[simp] theorem endOp_doneDp (s : State) : (endOp s).doneDp = s.doneDp := rfl
@[simp] theorem endOp_curv (s : State) : (endOp s).curv = s.curv := rfl
@[simp] theorem endOp_csumVerify (s : State) : (endOp s).csumVerify = s.csumVerify := rfl
@[simp] theorem endOp_maxDiscard (s : State) : (endOp s).maxDiscard = s.maxDiscard := rfl
@[simp] theorem endOp_errlog (s : State) : (endOp s).errlog = s.errlog := rfl
@[simp] theorem endOp_reqq (s : State) : (endOp s).reqq = s.reqq := rfl
@[simp] theorem endOp_resq (s : State) : (endOp s).resq = s.resq := rfl
@[simp] theorem endOp_ev (s : State) : (endOp s).ev = s.ev := rfl
@[simp] theorem endOp_params (s : State) : (endOp s).params = s.params := rfl
@[simp] theorem endOp_cop (s : State) : (endOp s).cop = .none := rfl
@[simp] theorem endOp_intrSw (s : State) : (endOp s).intrSw = s.intrSw := rfl
@[simp] theorem endOp_intrDp (s : State) : (endOp s).intrDp = s.intrDp := rfl
@[simp] theorem endOp_lineOpenOk (s : State) : (endOp s).lineOpenOk = s.lineOpenOk := rfl
@[simp] theorem endOp_hostPort (s : State) : (endOp s).hostPort = s.hostPort := rfl
@[simp] theorem endOp_codecPort (s : State) : (endOp s).codecPort = s.codecPort := rfl
@[simp] theorem endOp_fePort (s : State) : (endOp s).fePort = s.fePort := rfl
@[simp] theorem endOp_regPort (s : State) : (endOp s).regPort = s.regPort := rfl
@[simp] theorem endOp_txfWritten (s : State) : (endOp s).txfWritten = s.txfWritten := rfl
@[simp] theorem endOp_rxfWritten (s : State) : (endOp s).rxfWritten = s.rxfWritten := rfl
@[simp] theorem endOp_drawn (s : State) : (endOp s).drawn = s.drawn := rfl
@[simp] theorem endOp_feWait (s : State) : (endOp s).feWait = s.feWait := rfl
@[simp] theorem endOp_agenda (s : State) : (endOp s).agenda = s.agenda := rfl
@[simp] theorem endOp_lineIn (s : State) : (endOp s).lineIn = s.lineIn := rfl

/-! ## writeTxf -/

@[simp] theorem writeTxf_txf (q : Quad) (s : State) : (writeTxf q s).txf = q := rfl
@[simp] theorem writeTxf_rxf (q : Quad) (s : State) : (writeTxf q s).rxf = s.rxf := rfl
@[simp] theorem writeTxf_ch (q : Quad) (s : State) : (writeTxf q s).ch = s.ch := rfl
@[simp] theorem writeTxf_cn (q : Quad) (s : State) : (writeTxf q s).cn = s.cn := rfl
@[simp] theorem writeTxf_disc (q : Quad) (s : State) : (writeTxf q s).disc = s.disc := rfl
@[simp] theorem writeTxf_xres (q : Quad) (s : State) : (writeTxf q s).xres = s.xres := rfl
@[simp] theorem writeTxf_lreq (q : Quad) (s : State) : (writeTxf q s).lreq = s.lreq := rfl
@[simp] theorem writeTxf_lres (q : Quad) (s : State) : (writeTxf q s).lres = s.lres := rfl
@[simp] theorem writeTxf_pv (q : Quad) (s : State) : (writeTxf q s).pv = s.pv := rfl
@[simp] theorem writeTxf_cur (q : Quad) (s : State) : (writeTxf q s).cur = s.cur := rfl
@[simp] theorem writeTxf_rxb (q : Quad) (s : State) : (writeTxf q s).rxb = s.rxb := rfl
@[simp] theorem writeTxf_txb (q : Quad) (s : State) : (writeTxf q s).txb = s.txb := rfl
@[simp] theorem writeTxf_xs (q : Quad) (s : State) : (writeTxf q s).xs = s.xs := rfl
@[simp] theorem writeTxf_ps (q : Quad) (s : State) : (writeTxf q s).ps = s.ps := rfl
@[simp] theorem writeTxf_ss (q : Quad) (s : State) : (writeTxf q s).ss = s.ss := rfl
@[simp] theorem writeTxf_ds (q : Quad) (s : State) : (writeTxf q s).ds = s.ds := rfl
@[simp] theorem writeTxf_isOpen (q : Quad) (s : State) : (writeTxf q s).isOpen = s.isOpen := rfl
@[simp] theorem writeTxf_intr (q : Quad) (s : State) : (writeTxf q s).intr = s.intr := rfl
@[simp] theorem writeTxf_doneSw (q : Quad) (s : State) : (writeTxf q s).doneSw = s.doneSw := rfl
@[simp] theorem writeTxf_doneDp (q : Quad) (s : State) : (writeTxf q s).doneDp = s.doneDp := rfl
@[simp] theorem writeTxf_curv (q : Quad) (s : State) : (writeTxf q s).curv = s.curv := rfl
@[simp] theorem writeTxf_csumVerify (q : Quad) (s : State) : (writeTxf q s).csumVerify = s.csumVerify := rfl
@[simp] theorem writeTxf_maxDiscard (q : Quad) (s : State) : (writeTxf q s).maxDiscard = s.maxDiscard := rfl
@[simp] theorem writeTxf_errlog (q : Quad) (s : State) : (writeTxf q s).errlog = s.errlog := rfl
@[simp] theorem writeTxf_reqq (q : Quad) (s : State) : (writeTxf q s).reqq = s.reqq := rfl
@[simp] theorem writeTxf_resq (q : Quad) (s : State) : (writeTxf q s).resq = s.resq := rfl
@[simp] theorem writeTxf_ev (q : Quad) (s : State) : (writeTxf q s).ev = s.ev := rfl
@[simp] theorem writeTxf_params (q : Quad) (s : State) : (writeTxf q s).params = s.params := rfl
@[simp] theorem writeTxf_cop (q : Quad) (s : State) : (writeTxf q s).cop = s.cop := rfl
@[simp] theorem writeTxf_intrSw (q : Quad) (s : State) : (writeTxf q s).intrSw = s.intrSw := rfl
@[simp] theorem writeTxf_intrDp (q : Quad) (s : State) : (writeTxf q s).intrDp = s.intrDp := rfl
@[simp] theorem writeTxf_lineOpenOk (q : Quad) (s : State) : (writeTxf q s).lineOpenOk = s.lineOpenOk := rfl
@[simp] theorem writeTxf_hostPort (q : Quad) (s : State) : (writeTxf q s).hostPort = s.hostPort := rfl
@[simp] theorem writeTxf_codecPort (q : Quad) (s : State) : (writeTxf q s).codecPort = s.codecPort := rfl
@[simp] theorem writeTxf_fePort (q : Quad) (s : State) : (writeTxf q s).fePort = s.fePort := rfl
@[simp] theorem writeTxf_regPort (q : Quad) (s : State) : (writeTxf q s).regPort = s.regPort := rfl
@[simp] theorem writeTxf_txfWritten (q : Quad) (s : State) : (writeTxf q s).txfWritten = true := rfl
@[simp] theorem writeTxf_rxfWritten (q : Quad) (s : State) : (writeTxf q s).rxfWritten = s.rxfWritten := rfl
@[simp] theorem writeTxf_drawn (q : Quad) (s : State) : (writeTxf q s).drawn = s.drawn := rfl
@[simp] theorem writeTxf_feWait (q : Quad) (s : State) : (writeTxf q s).feWait = s.feWait := rfl
@[simp] theorem writeTxf_agenda (q : Quad) (s : State) : (writeTxf q s).agenda = s.agenda := rfl
@[simp] theorem writeTxf_lineIn (q : Quad) (s : State) : (writeTxf q s).lineIn = s.lineIn := rfl

/-! ## writeRxf -/

@[simp] theorem writeRxf_txf (q : Quad) (s : State) : (writeRxf q s).txf = s.txf := rfl
@[simp] theorem writeRxf_rxf (q : Quad) (s : State) : (writeRxf q s).rxf = q := rfl
@[simp] theorem writeRxf_ch (q : Quad) (s : State) : (writeRxf q s).ch = s.ch := rfl
@[simp] theorem writeRxf_cn (q : Quad) (s : State) : (writeRxf q s).cn = s.cn := rfl
@[simp] theorem writeRxf_disc (q : Quad) (s : State) : (writeRxf q s).disc = s.disc := rfl
@[simp] theorem writeRxf_xres (q : Quad) (s : State) : (writeRxf q s).xres = s.xres := rfl
@[simp] theorem writeRxf_lreq (q : Quad) (s : State) : (writeRxf q s).lreq = s.lreq := rfl
@[simp] theorem writeRxf_lres (q : Quad) (s : State) : (writeRxf q s).lres = s.lres := rfl
@[simp] theorem writeRxf_pv (q : Quad) (s : State) : (writeRxf q s).pv = s.pv := rfl
@[simp] theorem writeRxf_cur (q : Quad) (s : State) : (writeRxf q s).cur = s.cur := rfl
@[simp] theorem writeRxf_rxb (q : Quad) (s : State) : (writeRxf q s).rxb = s.rxb := rfl
@[simp] theorem writeRxf_txb (q : Quad) (s : State) : (writeRxf q s).txb = s.txb := rfl
@[simp] theorem writeRxf_xs (q : Quad) (s : State) : (writeRxf q s).xs = s.xs := rfl
@[simp] theorem writeRxf_ps (q : Quad) (s : State) : (writeRxf q s).ps = s.ps := rfl
@[simp] theorem writeRxf_ss (q : Quad) (s : State) : (writeRxf q s).ss = s.ss := rfl
@[simp] theorem writeRxf_ds (q : Quad) (s : State) : (writeRxf q s).ds = s.ds := rfl
@[simp] theorem writeRxf_isOpen (q : Quad) (s : State) : (writeRxf q s).isOpen = s.isOpen := rfl
@[simp] theorem writeRxf_intr (q : Quad) (s : State) : (writeRxf q s).intr = s.intr := rfl
@[simp] theorem writeRxf_doneSw (q : Quad) (s : State) : (writeRxf q s).doneSw = s.doneSw := rfl
@[simp] theorem writeRxf_doneDp (q : Quad) (s : State) : (writeRxf q s).doneDp = s.doneDp := rfl
@[simp] theorem writeRxf_curv (q : Quad) (s : State) : (writeRxf q s).curv = s.curv := rfl
@[simp] theorem writeRxf_csumVerify (q : Quad) (s : State) : (writeRxf q s).csumVerify = s.csumVerify := rfl
@[simp] theorem writeRxf_maxDiscard (q : Quad) (s : State) : (writeRxf q s).maxDiscard = s.maxDiscard := rfl
@[simp] theorem writeRxf_errlog (q : Quad) (s : State) : (writeRxf q s).errlog = s.errlog := rfl
@[simp] theorem writeRxf_reqq (q : Quad) (s : State) : (writeRxf q s).reqq = s.reqq := rfl
@[simp] theorem writeRxf_resq (q : Quad) (s : State) : (writeRxf q s).resq = s.resq := rfl
@[simp] theorem writeRxf_ev (q : Quad) (s : State) : (writeRxf q s).ev = s.ev := rfl
@[simp] theorem writeRxf_params (q : Quad) (s : State) : (writeRxf q s).params = s.params := rfl
@[simp] theorem writeRxf_cop (q : Quad) (s : State) : (writeRxf q s).cop = s.cop := rfl
@[simp] theorem writeRxf_intrSw (q : Quad) (s : State) : (writeRxf q s).intrSw = s.intrSw := rfl
@[simp] theorem writeRxf_intrDp (q : Quad) (s : State) : (writeRxf q s).intrDp = s.intrDp := rfl
@[simp] theorem writeRxf_lineOpenOk (q : Quad) (s : State) : (writeRxf q s).lineOpenOk = s.lineOpenOk := rfl
@[simp] theorem writeRxf_hostPort (q : Quad) (s : State) : (writeRxf q s).hostPort = s.hostPort := rfl
@[simp] theorem writeRxf_codecPort (q : Quad) (s : State) : (writeRxf q s).codecPort = s.codecPort := rfl
@[simp] theorem writeRxf_fePort (q : Quad) (s : State) : (writeRxf q s).fePort = s.fePort := rfl
@[simp] theorem writeRxf_regPort (q : Quad) (s : State) : (writeRxf q s).regPort = s.regPort := rfl
@[simp] theorem writeRxf_txfWritten (q : Quad) (s : State) : (writeRxf q s).txfWritten = s.txfWritten := rfl
@[simp] theorem writeRxf_rxfWritten (q : Quad) (s : State) : (writeRxf q s).rxfWritten = true := rfl
@[simp] theorem writeRxf_drawn (q : Quad) (s : State) : (writeRxf q s).drawn = s.drawn := rfl
@[simp] theorem writeRxf_feWait (q : Quad) (s : State) : (writeRxf q s).feWait = s.feWait := rfl
@[simp] theorem writeRxf_agenda (q : Quad) (s : State) : (writeRxf q s).agenda = s.agenda := rfl
@[simp] theorem writeRxf_lineIn (q : Quad) (s : State) : (writeRxf q s).lineIn = s.lineIn := rfl

/-! ## loadTxf -/

@[simp] theorem loadTxf_txf (c a d : Byte) (s : State) : (loadTxf c a d s).txf = frameBytes c a d := rfl
@[simp] theorem loadTxf_rxf (c a d : Byte) (s : State) : (loadTxf c a d s).rxf = s.rxf := rfl
@[simp] theorem loadTxf_ch (c a d : Byte) (s : State) : (loadTxf c a d s).ch = s.ch := rfl
@[simp] theorem loadTxf_cn (c a d : Byte) (s : State) : (loadTxf c a d s).cn = s.cn := rfl
@[simp] theorem loadTxf_disc (c a d : Byte) (s : State) : (loadTxf c a d s).disc = s.disc := rfl
@[simp] theorem loadTxf_xres (c a d : Byte) (s : State) : (loadTxf c a d s).xres = s.xres := rfl
@[simp] theorem loadTxf_lreq (c a d : Byte) (s : State) : (loadTxf c a d s).lreq = s.lreq := rfl
@[simp] theorem loadTxf_lres (c a d : Byte) (s : State) : (loadTxf c a d s).lres = s.lres := rfl
@[simp] theorem loadTxf_pv (c a d : Byte) (s : State) : (loadTxf c a d s).pv = s.pv := rfl
@[simp] theorem loadTxf_cur (c a d : Byte) (s : State) : (loadTxf c a d s).cur = s.cur := rfl
@[simp] theorem loadTxf_rxb (c a d : Byte) (s : State) : (loadTxf c a d s).rxb = s.rxb := rfl
@[simp] theorem loadTxf_txb (c a d : Byte) (s : State) : (loadTxf c a d s).txb = s.txb := rfl
@[simp] theorem loadTxf_xs (c a d : Byte) (s : State) : (loadTxf c a d s).xs = s.xs := rfl
@[simp] theorem loadTxf_ps (c a d : Byte) (s : State) : (loadTxf c a d s).ps = s.ps := rfl
@[simp] theorem loadTxf_ss (c a d : Byte) (s : State) : (loadTxf c a d s).ss = s.ss := rfl
@[simp] theorem loadTxf_ds (c a d : Byte) (s : State) : (loadTxf c a d s).ds = s.ds := rfl
@[simp] theorem loadTxf_isOpen (c a d : Byte) (s : State) : (loadTxf c a d s).isOpen = s.isOpen := rfl
@[simp] theorem loadTxf_intr (c a d : Byte) (s : State) : (loadTxf c a d s).intr = s.intr := rfl
@[simp] theorem loadTxf_doneSw (c a d : Byte) (s : State) : (loadTxf c a d s).doneSw = s.doneSw := rfl
@[simp] theorem loadTxf_doneDp (c a d : Byte) (s : State) : (loadTxf c a d s).doneDp = s.doneDp := rfl
@[simp] theorem loadTxf_curv (c a d : Byte) (s : State) : (loadTxf c a d s).curv = s.curv := rfl
@[simp] theorem loadTxf_csumVerify (c a d : Byte) (s : State) : (loadTxf c a d s).csumVerify = s.csumVerify := rfl
@[simp] theorem loadTxf_maxDiscard (c a d : Byte) (s : State) : (loadTxf c a d s).maxDiscard = s.maxDiscard := rfl
@[simp] theorem loadTxf_errlog (c a d : Byte) (s : State) : (loadTxf c a d s).errlog = s.errlog := rfl
@[simp] theorem loadTxf_reqq (c a d : Byte) (s : State) : (loadTxf c a d s).reqq = s.reqq := rfl
@[simp] theorem loadTxf_resq (c a d : Byte) (s : State) : (loadTxf c a d s).resq = s.resq := rfl
@[simp] theorem loadTxf_ev (c a d : Byte) (s : State) : (loadTxf c a d s).ev = s.ev := rfl
@[simp] theorem loadTxf_params (c a d : Byte) (s : State) : (loadTxf c a d s).params = s.params := rfl
@[simp] theorem loadTxf_cop (c a d : Byte) (s : State) : (loadTxf c a d s).cop = s.cop := rfl
@[simp] theorem loadTxf_intrSw (c a d : Byte) (s : State) : (loadTxf c a d s).intrSw = s.intrSw := rfl
@[simp] theorem loadTxf_intrDp (c a d : Byte) (s : State) : (loadTxf c a d s).intrDp = s.intrDp := rfl
@[simp] theorem loadTxf_lineOpenOk (c a d : Byte) (s : State) : (loadTxf c a d s).lineOpenOk = s.lineOpenOk := rfl
@[simp] theorem loadTxf_hostPort (c a d : Byte) (s : State) : (loadTxf c a d s).hostPort = s.hostPort := rfl
@[simp] theorem loadTxf_codecPort (c a d : Byte) (s : State) : (loadTxf c a d s).codecPort = s.codecPort := rfl
@[simp] theorem loadTxf_fePort (c a d : Byte) (s : State) : (loadTxf c a d s).fePort = s.fePort := rfl
@[simp] theorem loadTxf_regPort (c a d : Byte) (s : State) : (loadTxf c a d s).regPort = s.regPort := rfl
@[simp] theorem loadTxf_txfWritten (c a d : Byte) (s : State) : (loadTxf c a d s).txfWritten = true := rfl
@[simp] theorem loadTxf_rxfWritten (c a d : Byte) (s : State) : (loadTxf c a d s).rxfWritten = s.rxfWritten := rfl
@[simp] theorem loadTxf_drawn (c a d : Byte) (s : State) : (loadTxf c a d s).drawn = s.drawn := rfl
@[simp] theorem loadTxf_feWait (c a d : Byte) (s : State) : (loadTxf c a d s).feWait = s.feWait := rfl
@[simp] theorem loadTxf_agenda (c a d : Byte) (s : State) : (loadTxf c a d s).agenda = s.agenda := rfl
@[simp] theorem loadTxf_lineIn (c a d : Byte) (s : State) : (loadTxf c a d s).lineIn = s.lineIn := rfl

/-! ## verdict -/

@[simp] theorem verdict_txf (v : Verdict) (s : State) : (verdict v s).txf = s.txf := rfl
@[simp] theorem verdict_rxf (v : Verdict) (s : State) : (verdict v s).rxf = s.rxf := rfl
@[simp] theorem verdict_ch (v : Verdict) (s : State) : (verdict v s).ch = s.ch := rfl
@[simp] theorem verdict_cn (v : Verdict) (s : State) : (verdict v s).cn = s.cn := rfl
@[simp] theorem verdict_disc (v : Verdict) (s : State) : (verdict v s).disc = s.disc := rfl
@[simp] theorem verdict_xres (v : Verdict) (s : State) : (verdict v s).xres = v := rfl
@[simp] theorem verdict_lreq (v : Verdict) (s : State) : (verdict v s).lreq = s.lreq := rfl
@[simp] theorem verdict_lres (v : Verdict) (s : State) : (verdict v s).lres = s.lres := rfl
@[simp] theorem verdict_pv (v : Verdict) (s : State) : (verdict v s).pv = s.pv := rfl
@[simp] theorem verdict_cur (v : Verdict) (s : State) : (verdict v s).cur = s.cur := rfl
@[simp] theorem verdict_rxb (v : Verdict) (s : State) : (verdict v s).rxb = s.rxb := rfl
@[simp] theorem verdict_txb (v : Verdict) (s : State) : (verdict v s).txb = s.txb := rfl
@[simp] theorem verdict_xs (v : Verdict) (s : State) : (verdict v s).xs = .pace := rfl
@[simp] theorem verdict_ps (v : Verdict) (s : State) : (verdict v s).ps = s.ps := rfl
@[simp] theorem verdict_ss (v : Verdict) (s : State) : (verdict v s).ss = s.ss := rfl
@[simp] theorem verdict_ds (v : Verdict) (s : State) : (verdict v s).ds = s.ds := rfl
@[simp] theorem verdict_isOpen (v : Verdict) (s : State) : (verdict v s).isOpen = s.isOpen := rfl
@[simp] theorem verdict_intr (v : Verdict) (s : State) : (verdict v s).intr = s.intr := rfl
@[simp] theorem verdict_doneSw (v : Verdict) (s : State) : (verdict v s).doneSw = s.doneSw := rfl
@[simp] theorem verdict_doneDp (v : Verdict) (s : State) : (verdict v s).doneDp = s.doneDp := rfl
@[simp] theorem verdict_curv (v : Verdict) (s : State) : (verdict v s).curv = s.curv := rfl
@[simp] theorem verdict_csumVerify (v : Verdict) (s : State) : (verdict v s).csumVerify = s.csumVerify := rfl
@[simp] theorem verdict_maxDiscard (v : Verdict) (s : State) : (verdict v s).maxDiscard = s.maxDiscard := rfl
@[simp] theorem verdict_errlog (v : Verdict) (s : State) : (verdict v s).errlog = s.errlog := rfl
@[simp] theorem verdict_reqq (v : Verdict) (s : State) : (verdict v s).reqq = s.reqq := rfl
@[simp] theorem verdict_resq (v : Verdict) (s : State) : (verdict v s).resq = s.resq := rfl
@[simp] theorem verdict_ev (v : Verdict) (s : State) : (verdict v s).ev = s.ev := rfl
@[simp] theorem verdict_params (v : Verdict) (s : State) : (verdict v s).params = s.params := rfl
@[simp] theorem verdict_cop (v : Verdict) (s : State) : (verdict v s).cop = s.cop := rfl
@[simp] theorem verdict_intrSw (v : Verdict) (s : State) : (verdict v s).intrSw = s.intrSw := rfl
@[simp] theorem verdict_intrDp (v : Verdict) (s : State) : (verdict v s).intrDp = s.intrDp := rfl
@[simp] theorem verdict_lineOpenOk (v : Verdict) (s : State) : (verdict v s).lineOpenOk = s.lineOpenOk := rfl
@[simp] theorem verdict_hostPort (v : Verdict) (s : State) : (verdict v s).hostPort = s.hostPort := rfl
@[simp] theorem verdict_codecPort (v : Verdict) (s : State) : (verdict v s).codecPort = s.codecPort := rfl
@[simp] theorem verdict_fePort (v : Verdict) (s : State) : (verdict v s).fePort = s.fePort := rfl
@[simp] theorem verdict_regPort (v : Verdict) (s : State) : (verdict v s).regPort = s.regPort := rfl
@[simp] theorem verdict_txfWritten (v : Verdict) (s : State) : (verdict v s).txfWritten = s.txfWritten := rfl
@[simp] theorem verdict_rxfWritten (v : Verdict) (s : State) : (verdict v s).rxfWritten = s.rxfWritten := rfl
@[simp] theorem verdict_drawn (v : Verdict) (s : State) : (verdict v s).drawn = s.drawn := rfl
@[simp] theorem verdict_feWait (v : Verdict) (s : State) : (verdict v s).feWait = s.feWait := rfl
@[simp] theorem verdict_agenda (v : Verdict) (s : State) : (verdict v s).agenda = s.agenda := rfl
@[simp] theorem verdict_lineIn (v : Verdict) (s : State) : (verdict v s).lineIn = s.lineIn := rfl

/-! ## flushLine -/

@[simp] theorem flushLine_txf (s : State) : (flushLine s).txf = s.txf := rfl
@[simp] theorem flushLine_rxf (s : State) : (flushLine s).rxf = s.rxf := rfl
@[simp] theorem flushLine_ch (s : State) : (flushLine s).ch = s.ch := rfl
@[simp] theorem flushLine_cn (s : State) : (flushLine s).cn = s.cn := rfl
@[simp] theorem flushLine_disc (s : State) : (flushLine s).disc = s.disc := rfl
@[simp] theorem flushLine_xres (s : State) : (flushLine s).xres = s.xres := rfl
@[simp] theorem flushLine_lreq (s : State) : (flushLine s).lreq = s.lreq := rfl
@[simp] theorem flushLine_lres (s : State) : (flushLine s).lres = s.lres := rfl
@[simp] theorem flushLine_pv (s : State) : (flushLine s).pv = s.pv := rfl
@[simp] theorem flushLine_cur (s : State) : (flushLine s).cur = s.cur := rfl
@[simp] theorem flushLine_rxb (s : State) : (flushLine s).rxb = [] := rfl
@[simp] theorem flushLine_txb (s : State) : (flushLine s).txb = [] := rfl
@[simp] theorem flushLine_xs (s : State) : (flushLine s).xs = s.xs := rfl
@[simp] theorem flushLine_ps (s : State) : (flushLine s).ps = s.ps := rfl
@[simp] theorem flushLine_ss (s : State) : (flushLine s).ss = s.ss := rfl
@[simp] theorem flushLine_ds (s : State) : (flushLine s).ds = s.ds := rfl
@[simp] theorem flushLine_isOpen (s : State) : (flushLine s).isOpen = s.isOpen := rfl
@[simp] theorem flushLine_intr (s : State) : (flushLine s).intr = s.intr := rfl
@[simp] theorem flushLine_doneSw (s : State) : (flushLine s).doneSw = s.doneSw := rfl
@[simp] theorem flushLine_doneDp (s : State) : (flushLine s).doneDp = s.doneDp := rfl
@[simp] theorem flushLine_curv (s : State) : (flushLine s).curv = s.curv := rfl
@[simp] theorem flushLine_csumVerify (s : State) : (flushLine s).csumVerify = s.csumVerify := rfl
@[simp] theorem flushLine_maxDiscard (s : State) : (flushLine s).maxDiscard = s.maxDiscard := rfl
@[simp] theorem flushLine_errlog (s : State) : (flushLine s).errlog = s.errlog := rfl
@[simp] theorem flushLine_reqq (s : State) : (flushLine s).reqq = s.reqq := rfl
@[simp] theorem flushLine_resq (s : State) : (flushLine s).resq = s.resq := rfl
@[simp] theorem flushLine_ev (s : State) : (flushLine s).ev = s.ev ++ [.flush] := rfl
@[simp] theorem flushLine_params (s : State) : (flushLine s).params = s.params := rfl
@[simp] theorem flushLine_cop (s : State) : (flushLine s).cop = s.cop := rfl
@[simp] theorem flushLine_intrSw (s : State) : (flushLine s).intrSw = s.intrSw := rfl
@[simp] theorem flushLine_intrDp (s : State) : (flushLine s).intrDp = s.intrDp := rfl
@[simp] theorem flushLine_lineOpenOk (s : State) : (flushLine s).lineOpenOk = s.lineOpenOk := rfl
@[simp] theorem flushLine_hostPort (s : State) : (flushLine s).hostPort = s.hostPort := rfl
@[simp] theorem flushLine_codecPort (s : State) : (flushLine s).codecPort = s.codecPort := rfl
@[simp] theorem flushLine_fePort (s : State) : (flushLine s).fePort = s.fePort := rfl
@[simp] theorem flushLine_regPort (s : State) : (flushLine s).regPort = s.regPort := rfl
@[simp] theorem flushLine_txfWritten (s : State) : (flushLine s).txfWritten = s.txfWritten := rfl
@[simp] theorem flushLine_rxfWritten (s : State) : (flushLine s).rxfWritten = s.rxfWritten := rfl
@[simp] theorem flushLine_drawn (s : State) : (flushLine s).drawn = s.drawn := rfl
@[simp] theorem flushLine_feWait (s : State) : (flushLine s).feWait = s.feWait := rfl
@[simp] theorem flushLine_agenda (s : State) : (flushLine s).agenda = s.agenda := rfl
@[simp] theorem flushLine_lineIn (s : State) : (flushLine s).lineIn = s.lineIn := rfl

/-! ## memWrite -/

@[simp] theorem memWrite_txf (q : Quad) (s : State) : (memWrite q s).txf = s.txf := rfl
@[simp] theorem memWrite_rxf (q : Quad) (s : State) : (memWrite q s).rxf = s.rxf := rfl
@[simp] theorem memWrite_ch (q : Quad) (s : State) : (memWrite q s).ch = s.ch := rfl
@[simp] theorem memWrite_cn (q : Quad) (s : State) : (memWrite q s).cn = s.cn := rfl
@[simp] theorem memWrite_disc (q : Quad) (s : State) : (memWrite q s).disc = s.disc := rfl
@[simp] theorem memWrite_xres (q : Quad) (s : State) : (memWrite q s).xres = s.xres := rfl
@[simp] theorem memWrite_lreq (q : Quad) (s : State) : (memWrite q s).lreq = s.lreq := rfl
@[simp] theorem memWrite_lres (q : Quad) (s : State) : (memWrite q s).lres = s.lres := rfl
@[simp] theorem memWrite_pv (q : Quad) (s : State) : (memWrite q s).pv = s.pv := rfl
@[simp] theorem memWrite_cur (q : Quad) (s : State) : (memWrite q s).cur = s.cur := rfl
@[simp] theorem memWrite_rxb (q : Quad) (s : State) : (memWrite q s).rxb = s.rxb := rfl
@[simp] theorem memWrite_txb (q : Quad) (s : State) : (memWrite q s).txb = [] := rfl
@[simp] theorem memWrite_xs (q : Quad) (s : State) : (memWrite q s).xs = s.xs := rfl
@[simp] theorem memWrite_ps (q : Quad) (s : State) : (memWrite q s).ps = s.ps := rfl
@[simp] theorem memWrite_ss (q : Quad) (s : State) : (memWrite q s).ss = s.ss := rfl
@[simp] theorem memWrite_ds (q : Quad) (s : State) : (memWrite q s).ds = s.ds := rfl
@[simp] theorem memWrite_isOpen (q : Quad) (s : State) : (memWrite q s).isOpen = s.isOpen := rfl
@[simp] theorem memWrite_intr (q : Quad) (s : State) : (memWrite q s).intr = s.intr := rfl
@[simp] theorem memWrite_doneSw (q : Quad) (s : State) : (memWrite q s).doneSw = s.doneSw := rfl
@[simp] theorem memWrite_doneDp (q : Quad) (s : State) : (memWrite q s).doneDp = s.doneDp := rfl
@[simp] theorem memWrite_curv (q : Quad) (s : State) : (memWrite q s).curv = s.curv := rfl
@[simp] theorem memWrite_csumVerify (q : Quad) (s : State) : (memWrite q s).csumVerify = s.csumVerify := rfl
@[simp] theorem memWrite_maxDiscard (q : Quad) (s : State) : (memWrite q s).maxDiscard = s.maxDiscard := rfl
@[simp] theorem memWrite_errlog (q : Quad) (s : State) : (memWrite q s).errlog = s.errlog := rfl
@[simp] theorem memWrite_reqq (q : Quad) (s : State) : (memWrite q s).reqq = s.reqq := rfl
@[simp] theorem memWrite_resq (q : Quad) (s : State) : (memWrite q s).resq = s.resq := rfl
@[simp] theorem memWrite_ev (q : Quad) (s : State) : (memWrite q s).ev = s.ev ++ [.tx q.b0 q.b1 q.b2 q.b3] := rfl
@[simp] theorem memWrite_params (q : Quad) (s : State) : (memWrite q s).params = s.params := rfl
@[simp] theorem memWrite_cop (q : Quad) (s : State) : (memWrite q s).cop = s.cop := rfl
@[simp] theorem memWrite_intrSw (q : Quad) (s : State) : (memWrite q s).intrSw = s.intrSw := rfl
@[simp] theorem memWrite_intrDp (q : Quad) (s : State) : (memWrite q s).intrDp = s.intrDp := rfl
@[simp] theorem memWrite_lineOpenOk (q : Quad) (s : State) : (memWrite q s).lineOpenOk = s.lineOpenOk := rfl
@[simp] theorem memWrite_hostPort (q : Quad) (s : State) : (memWrite q s).hostPort = s.hostPort := rfl
@[simp] theorem memWrite_codecPort (q : Quad) (s : State) : (memWrite q s).codecPort = s.codecPort := rfl
@[simp] theorem memWrite_fePort (q : Quad) (s : State) : (memWrite q s).fePort = s.fePort := rfl
@[simp] theorem memWrite_regPort (q : Quad) (s : State) : (memWrite q s).regPort = s.regPort := rfl
@[simp] theorem memWrite_txfWritten (q : Quad) (s : State) : (memWrite q s).txfWritten = s.txfWritten := rfl
@[simp] theorem memWrite_rxfWritten (q : Quad) (s : State) : (memWrite q s).rxfWritten = s.rxfWritten := rfl
@[simp] theorem memWrite_drawn (q : Quad) (s : State) : (memWrite q s).drawn = s.drawn := rfl
@[simp] theorem memWrite_feWait (q : Quad) (s : State) : (memWrite q s).feWait = s.feWait := rfl
@[simp] theorem memWrite_agenda (q : Quad) (s : State) : (memWrite q s).agenda = s.agenda := rfl
@[simp] theorem memWrite_lineIn (q : Quad) (s : State) : (memWrite q s).lineIn = s.lineIn := rfl

/-! ## closeLine -/

@[simp] theorem closeLine_txf (s : State) : (closeLine s).txf = s.txf := rfl
@[simp] theorem closeLine_rxf (s : State) : (closeLine s).rxf = s.rxf := rfl
@[simp] theorem closeLine_ch (s : State) : (closeLine s).ch = s.ch := rfl
@[simp] theorem closeLine_cn (s : State) : (closeLine s).cn = s.cn := rfl
@[simp] theorem closeLine_disc (s : State) : (closeLine s).disc = s.disc := rfl
@[simp] theorem closeLine_xres (s : State) : (closeLine s).xres = s.xres := rfl
@[simp] theorem closeLine_lreq (s : State) : (closeLine s).lreq = s.lreq := rfl
@[simp] theorem closeLine_lres (s : State) : (closeLine s).lres = s.lres := rfl
@[simp] theorem closeLine_pv (s : State) : (closeLine s).pv = s.pv := rfl
@[simp] theorem closeLine_cur (s : State) : (closeLine s).cur = s.cur := rfl
@[simp] theorem closeLine_rxb (s : State) : (closeLine s).rxb = [] := rfl
@[simp] theorem closeLine_txb (s : State) : (closeLine s).txb = [] := rfl
@[simp] theorem closeLine_xs (s : State) : (closeLine s).xs = s.xs := rfl
@[simp] theorem closeLine_ps (s : State) : (closeLine s).ps = s.ps := rfl
@[simp] theorem closeLine_ss (s : State) : (closeLine s).ss = s.ss := rfl
@[simp] theorem closeLine_ds (s : State) : (closeLine s).ds = s.ds := rfl
@[simp] theorem closeLine_isOpen (s : State) : (closeLine s).isOpen = false := rfl
@[simp] theorem closeLine_intr (s : State) : (closeLine s).intr = s.intr := rfl
@[simp] theorem closeLine_doneSw (s : State) : (closeLine s).doneSw = s.doneSw := rfl
@[simp] theorem closeLine_doneDp (s : State) : (closeLine s).doneDp = s.doneDp := rfl
@[simp] theorem closeLine_curv (s : State) : (closeLine s).curv = s.curv := rfl
@[simp] theorem closeLine_csumVerify (s : State) : (closeLine s).csumVerify = s.csumVerify := rfl
@[simp] theorem closeLine_maxDiscard (s : State) : (closeLine s).maxDiscard = s.maxDiscard := rfl
@[simp] theorem closeLine_errlog (s : State) : (closeLine s).errlog = s.errlog := rfl
@[simp] theorem closeLine_reqq (s : State) : (closeLine s).reqq = s.reqq := rfl
@[simp] theorem closeLine_resq (s : State) : (closeLine s).resq = s.resq := rfl
@[simp] theorem closeLine_ev (s : State) : (closeLine s).ev = s.ev ++ [.closed] := rfl
@[simp] theorem closeLine_params (s : State) : (closeLine s).params = s.params := rfl
@[simp] theorem closeLine_cop (s : State) : (closeLine s).cop = s.cop := rfl
@[simp] theorem closeLine_intrSw (s : State) : (closeLine s).intrSw = s.intrSw := rfl
@[simp] theorem closeLine_intrDp (s : State) : (closeLine s).intrDp = s.intrDp := rfl
@[simp] theorem closeLine_lineOpenOk (s : State) : (closeLine s).lineOpenOk = s.lineOpenOk := rfl
@[simp] theorem closeLine_hostPort (s : State) : (closeLine s).hostPort = s.hostPort := rfl
@[simp] theorem closeLine_codecPort (s : State) : (closeLine s).codecPort = s.codecPort := rfl
@[simp] theorem closeLine_fePort (s : State) : (closeLine s).fePort = s.fePort := rfl
@[simp] theorem closeLine_regPort (s : State) : (closeLine s).regPort = s.regPort := rfl
@[simp] theorem closeLine_txfWritten (s : State) : (closeLine s).txfWritten = s.txfWritten := rfl
@[simp] theorem closeLine_rxfWritten (s : State) : (closeLine s).rxfWritten = s.rxfWritten := rfl
@[simp] theorem closeLine_drawn (s : State) : (closeLine s).drawn = s.drawn := rfl
@[simp] theorem closeLine_feWait (s : State) : (closeLine s).feWait = s.feWait := rfl
@[simp] theorem closeLine_agenda (s : State) : (closeLine s).agenda = s.agenda := rfl
@[simp] theorem closeLine_lineIn (s : State) : (closeLine s).lineIn = s.lineIn := rfl

/-! ## takeByte -/

@[simp] theorem takeByte_txf (b : Byte) (rest : List Byte) (s : State) : (takeByte b rest s).txf = s.txf := rfl
@[simp] theorem takeByte_rxf (b : Byte) (rest : List Byte) (s : State) : (takeByte b rest s).rxf = s.rxf := rfl
@[simp] theorem takeByte_ch (b : Byte) (rest : List Byte) (s : State) : (takeByte b rest s).ch = putByte s.ch s.cn b := rfl
@[simp] theorem takeByte_cn (b : Byte) (rest : List Byte) (s : State) : (takeByte b rest s).cn = s.cn + 1 := rfl
@[simp] theorem takeByte_disc (b : Byte) (rest : List Byte) (s : State) : (takeByte b rest s).disc = s.disc := rfl
@[simp] theorem takeByte_xres (b : Byte) (rest : List Byte) (s : State) : (takeByte b rest s).xres = s.xres := rfl
@[simp] theorem takeByte_lreq (b : Byte) (rest : List Byte) (s : State) : (takeByte b rest s).lreq = s.lreq := rfl
@[simp] theorem takeByte_lres (b : Byte) (rest : List Byte) (s : State) : (takeByte b rest s).lres = s.lres := rfl
@[simp] theorem takeByte_pv (b : Byte) (rest : List Byte) (s : State) : (takeByte b rest s).pv = s.pv := rfl
@[simp] theorem takeByte_cur (b : Byte) (rest : List Byte) (s : State) : (takeByte b rest s).cur = s.cur := rfl
@[simp] theorem takeByte_rxb (b : Byte) (rest : List Byte) (s : State) : (takeByte b rest s).rxb = rest := rfl
@[simp] theorem takeByte_txb (b : Byte) (rest : List Byte) (s : State) : (takeByte b rest s).txb = s.txb := rfl
@[simp] theorem takeByte_xs (b : Byte) (rest : List Byte) (s : State) : (takeByte b rest s).xs = s.xs := rfl
@[simp] theorem takeByte_ps (b : Byte) (rest : List Byte) (s : State) : (takeByte b rest s).ps = s.ps := rfl
@[simp] theorem takeByte_ss (b : Byte) (rest : List Byte) (s : State) : (takeByte b rest s).ss = s.ss := rfl
@[simp] theorem takeByte_ds (b : Byte) (rest : List Byte) (s : State) : (takeByte b rest s).ds = s.ds := rfl
@[simp] theorem takeByte_isOpen (b : Byte) (rest : List Byte) (s : State) : (takeByte b rest s).isOpen = s.isOpen := rfl
@[simp] theorem takeByte_intr (b : Byte) (rest : List Byte) (s : State) : (takeByte b rest s).intr = s.intr := rfl
@[simp] theorem takeByte_doneSw (b : Byte) (rest : List Byte) (s : State) : (takeByte b rest s).doneSw = s.doneSw := rfl
@[simp] theorem takeByte_doneDp (b : Byte) (rest : List Byte) (s : State) : (takeByte b rest s).doneDp = s.doneDp := rfl
@[simp] theorem takeByte_curv (b : Byte) (rest : List Byte) (s : State) : (takeByte b rest s).curv = s.curv := rfl
@[simp] theorem takeByte_csumVerify (b : Byte) (rest : List Byte) (s : State) : (takeByte b rest s).csumVerify = s.csumVerify := rfl
@[simp] theorem takeByte_maxDiscard (b : Byte) (rest : List Byte) (s : State) : (takeByte b rest s).maxDiscard = s.maxDiscard := rfl
@[simp] theorem takeByte_errlog (b : Byte) (rest : List Byte) (s : State) : (takeByte b rest s).errlog = s.errlog := rfl
@[simp] theorem takeByte_reqq (b : Byte) (rest : List Byte) (s : State) : (takeByte b rest s).reqq = s.reqq := rfl
@[simp] theorem takeByte_resq (b : Byte) (rest : List Byte) (s : State) : (takeByte b rest s).resq = s.resq := rfl
@[simp] theorem takeByte_ev (b : Byte) (rest : List Byte) (s : State) : (takeByte b rest s).ev = s.ev ++ [.rxTake b] := rfl
@[simp] theorem takeByte_params (b : Byte) (rest : List Byte) (s : State) : (takeByte b rest s).params = s.params := rfl
@[simp] theorem takeByte_cop (b : Byte) (rest : List Byte) (s : State) : (takeByte b rest s).cop = s.cop := rfl
@[simp] theorem takeByte_intrSw (b : Byte) (rest : List Byte) (s : State) : (takeByte b rest s).intrSw = s.intrSw := rfl
@[simp] theorem takeByte_intrDp (b : Byte) (rest : List Byte) (s : State) : (takeByte b rest s).intrDp = s.intrDp := rfl
@[simp] theorem takeByte_lineOpenOk (b : Byte) (rest : List Byte) (s : State) : (takeByte b rest s).lineOpenOk = s.lineOpenOk := rfl
@[simp] theorem takeByte_hostPort (b : Byte) (rest : List Byte) (s : State) : (takeByte b rest s).hostPort = s.hostPort := rfl
@[simp] theorem takeByte_codecPort (b : Byte) (rest : List Byte) (s : State) : (takeByte b rest s).codecPort = s.codecPort := rfl
@[simp] theorem takeByte_fePort (b : Byte) (rest : List Byte) (s : State) : (takeByte b rest s).fePort = s.fePort := rfl
@[simp] theorem takeByte_regPort (b : Byte) (rest : List Byte) (s : State) : (takeByte b rest s).regPort = s.regPort := rfl
@[simp] theorem takeByte_txfWritten (b : Byte) (rest : List Byte) (s : State) : (takeByte b rest s).txfWritten = s.txfWritten := rfl
@[simp] theorem takeByte_rxfWritten (b : Byte) (rest : List Byte) (s : State) : (takeByte b rest s).rxfWritten = s.rxfWritten := rfl
@[simp] theorem takeByte_drawn (b : Byte) (rest : List Byte) (s : State) : (takeByte b rest s).drawn = s.drawn := rfl
@[simp] theorem takeByte_feWait (b : Byte) (rest : List Byte) (s : State) : (takeByte b rest s).feWait = s.feWait := rfl
@[simp] theorem takeByte_agenda (b : Byte) (rest : List Byte) (s : State) : (takeByte b rest s).agenda = s.agenda := rfl
@[simp] theorem takeByte_lineIn (b : Byte) (rest : List Byte) (s : State) : (takeByte b rest s).lineIn = s.lineIn := rfl

/-! ## pushReq -/

@[simp] theorem pushReq_txf (r : PendingRequest) (s : State) : (pushReq r s).txf = s.txf := rfl
@[simp] theorem pushReq_rxf (r : PendingRequest) (s : State) : (pushReq r s).rxf = s.rxf := rfl
@[simp] theorem pushReq_ch (r : PendingRequest) (s : State) : (pushReq r s).ch = s.ch := rfl
@[simp] theorem pushReq_cn (r : PendingRequest) (s : State) : (pushReq r s).cn = s.cn := rfl
@[simp] theorem pushReq_disc (r : PendingRequest) (s : State) : (pushReq r s).disc = s.disc := rfl
@[simp] theorem pushReq_xres (r : PendingRequest) (s : State) : (pushReq r s).xres = s.xres := rfl
@[simp] theorem pushReq_lreq (r : PendingRequest) (s : State) : (pushReq r s).lreq = s.lreq := rfl
@[simp] theorem pushReq_lres (r : PendingRequest) (s : State) : (pushReq r s).lres = s.lres := rfl
@[simp] theorem pushReq_pv (r : PendingRequest) (s : State) : (pushReq r s).pv = s.pv := rfl
@[simp] theorem pushReq_cur (r : PendingRequest) (s : State) : (pushReq r s).cur = s.cur := rfl
@[simp] theorem pushReq_rxb (r : PendingRequest) (s : State) : (pushReq r s).rxb = s.rxb := rfl
@[simp] theorem pushReq_txb (r : PendingRequest) (s : State) : (pushReq r s).txb = s.txb := rfl
@[simp] theorem pushReq_xs (r : PendingRequest) (s : State) : (pushReq r s).xs = s.xs := rfl
@[simp] theorem pushReq_ps (r : PendingRequest) (s : State) : (pushReq r s).ps = s.ps := rfl
@[simp] theorem pushReq_ss (r : PendingRequest) (s : State) : (pushReq r s).ss = s.ss := rfl
@[simp] theorem pushReq_ds (r : PendingRequest) (s : State) : (pushReq r s).ds = s.ds := rfl
@[simp] theorem pushReq_isOpen (r : PendingRequest) (s : State) : (pushReq r s).isOpen = s.isOpen := rfl
@[simp] theorem pushReq_intr (r : PendingRequest) (s : State) : (pushReq r s).intr = s.intr := rfl
@[simp] theorem pushReq_doneSw (r : PendingRequest) (s : State) : (pushReq r s).doneSw = s.doneSw := rfl
@[simp] theorem pushReq_doneDp (r : PendingRequest) (s : State) : (pushReq r s).doneDp = s.doneDp := rfl
@[simp] theorem pushReq_curv (r : PendingRequest) (s : State) : (pushReq r s).curv = s.curv := rfl
@[simp] theorem pushReq_csumVerify (r : PendingRequest) (s : State) : (pushReq r s).csumVerify = s.csumVerify := rfl
@[simp] theorem pushReq_maxDiscard (r : PendingRequest) (s : State) : (pushReq r s).maxDiscard = s.maxDiscard := rfl
@[simp] theorem pushReq_errlog (r : PendingRequest) (s : State) : (pushReq r s).errlog = s.errlog := rfl
@[simp] theorem pushReq_reqq (r : PendingRequest) (s : State) : (pushReq r s).reqq = fifoPush s.reqq r := rfl
@[simp] theorem pushReq_resq (r : PendingRequest) (s : State) : (pushReq r s).resq = s.resq := rfl
@[simp] theorem pushReq_ev (r : PendingRequest) (s : State) : (pushReq r s).ev = s.ev ++ [.push (.reqq r)] := rfl
@[simp] theorem pushReq_params (r : PendingRequest) (s : State) : (pushReq r s).params = s.params := rfl
@[simp] theorem pushReq_cop (r : PendingRequest) (s : State) : (pushReq r s).cop = s.cop := rfl
@[simp] theorem pushReq_intrSw (r : PendingRequest) (s : State) : (pushReq r s).intrSw = s.intrSw := rfl
@[simp] theorem pushReq_intrDp (r : PendingRequest) (s : State) : (pushReq r s).intrDp = s.intrDp := rfl
@[simp] theorem pushReq_lineOpenOk (r : PendingRequest) (s : State) : (pushReq r s).lineOpenOk = s.lineOpenOk := rfl
@[simp] theorem pushReq_hostPort (r : PendingRequest) (s : State) : (pushReq r s).hostPort = s.hostPort := rfl
@[simp] theorem pushReq_codecPort (r : PendingRequest) (s : State) : (pushReq r s).codecPort = s.codecPort := rfl
@[simp] theorem pushReq_fePort (r : PendingRequest) (s : State) : (pushReq r s).fePort = s.fePort := rfl
@[simp] theorem pushReq_regPort (r : PendingRequest) (s : State) : (pushReq r s).regPort = s.regPort := rfl
@[simp] theorem pushReq_txfWritten (r : PendingRequest) (s : State) : (pushReq r s).txfWritten = s.txfWritten := rfl
@[simp] theorem pushReq_rxfWritten (r : PendingRequest) (s : State) : (pushReq r s).rxfWritten = s.rxfWritten := rfl
@[simp] theorem pushReq_drawn (r : PendingRequest) (s : State) : (pushReq r s).drawn = s.drawn := rfl
@[simp] theorem pushReq_feWait (r : PendingRequest) (s : State) : (pushReq r s).feWait = s.feWait := rfl
@[simp] theorem pushReq_agenda (r : PendingRequest) (s : State) : (pushReq r s).agenda = s.agenda := rfl
@[simp] theorem pushReq_lineIn (r : PendingRequest) (s : State) : (pushReq r s).lineIn = s.lineIn := rfl

/-! ## pushRes -/

@[simp] theorem pushRes_txf (v : Byte) (s : State) : (pushRes v s).txf = s.txf := rfl
@[simp] theorem pushRes_rxf (v : Byte) (s : State) : (pushRes v s).rxf = s.rxf := rfl
@[simp] theorem pushRes_ch (v : Byte) (s : State) : (pushRes v s).ch = s.ch := rfl
@[simp] theorem pushRes_cn (v : Byte) (s : State) : (pushRes v s).cn = s.cn := rfl
@[simp] theorem pushRes_disc (v : Byte) (s : State) : (pushRes v s).disc = s.disc := rfl
@[simp] theorem pushRes_xres (v : Byte) (s : State) : (pushRes v s).xres = s.xres := rfl
@[simp] theorem pushRes_lreq (v : Byte) (s : State) : (pushRes v s).lreq = s.lreq := rfl
@[simp] theorem pushRes_lres (v : Byte) (s : State) : (pushRes v s).lres = s.lres := rfl
@[simp] theorem pushRes_pv (v : Byte) (s : State) : (pushRes v s).pv = s.pv := rfl
@[simp] theorem pushRes_cur (v : Byte) (s : State) : (pushRes v s).cur = s.cur := rfl
@[simp] theorem pushRes_rxb (v : Byte) (s : State) : (pushRes v s).rxb = s.rxb := rfl
@[simp] theorem pushRes_txb (v : Byte) (s : State) : (pushRes v s).txb = s.txb := rfl
@[simp] theorem pushRes_xs (v : Byte) (s : State) : (pushRes v s).xs = s.xs := rfl
@[simp] theorem pushRes_ps (v : Byte) (s : State) : (pushRes v s).ps = s.ps := rfl
@[simp] theorem pushRes_ss (v : Byte) (s : State) : (pushRes v s).ss = s.ss := rfl
@[simp] theorem pushRes_ds (v : Byte) (s : State) : (pushRes v s).ds = s.ds := rfl
@[simp] theorem pushRes_isOpen (v : Byte) (s : State) : (pushRes v s).isOpen = s.isOpen := rfl
@[simp] theorem pushRes_intr (v : Byte) (s : State) : (pushRes v s).intr = s.intr := rfl
@[simp] theorem pushRes_doneSw (v : Byte) (s : State) : (pushRes v s).doneSw = s.doneSw := rfl
@[simp] theorem pushRes_doneDp (v : Byte) (s : State) : (pushRes v s).doneDp = s.doneDp := rfl
@[simp] theorem pushRes_curv (v : Byte) (s : State) : (pushRes v s).curv = s.curv := rfl
@[simp] theorem pushRes_csumVerify (v : Byte) (s : State) : (pushRes v s).csumVerify = s.csumVerify := rfl
@[simp] theorem pushRes_maxDiscard (v : Byte) (s : State) : (pushRes v s).maxDiscard = s.maxDiscard := rfl
@[simp] theorem pushRes_errlog (v : Byte) (s : State) : (pushRes v s).errlog = s.errlog := rfl
@[simp] theorem pushRes_reqq (v : Byte) (s : State) : (pushRes v s).reqq = s.reqq := rfl
@[simp] theorem pushRes_resq (v : Byte) (s : State) : (pushRes v s).resq = fifoPush s.resq v := rfl
@[simp] theorem pushRes_ev (v : Byte) (s : State) : (pushRes v s).ev = s.ev ++ [.push (.resq v)] := rfl
@[simp] theorem pushRes_params (v : Byte) (s : State) : (pushRes v s).params = s.params := rfl
@[simp] theorem pushRes_cop (v : Byte) (s : State) : (pushRes v s).cop = s.cop := rfl
@[simp] theorem pushRes_intrSw (v : Byte) (s : State) : (pushRes v s).intrSw = s.intrSw := rfl
@[simp] theorem pushRes_intrDp (v : Byte) (s : State) : (pushRes v s).intrDp = s.intrDp := rfl
@[simp] theorem pushRes_lineOpenOk (v : Byte) (s : State) : (pushRes v s).lineOpenOk = s.lineOpenOk := rfl
@[simp] theorem pushRes_hostPort (v : Byte) (s : State) : (pushRes v s).hostPort = s.hostPort := rfl
@[simp] theorem pushRes_codecPort (v : Byte) (s : State) : (pushRes v s).codecPort = s.codecPort := rfl
@[simp] theorem pushRes_fePort (v : Byte) (s : State) : (pushRes v s).fePort = s.fePort := rfl
@[simp] theorem pushRes_regPort (v : Byte) (s : State) : (pushRes v s).regPort = s.regPort := rfl
@[simp] theorem pushRes_txfWritten (v : Byte) (s : State) : (pushRes v s).txfWritten = s.txfWritten := rfl
@[simp] theorem pushRes_rxfWritten (v : Byte) (s : State) : (pushRes v s).rxfWritten = s.rxfWritten := rfl
@[simp] theorem pushRes_drawn (v : Byte) (s : State) : (pushRes v s).drawn = s.drawn := rfl
@[simp] theorem pushRes_feWait (v : Byte) (s : State) : (pushRes v s).feWait = s.feWait := rfl
@[simp] theorem pushRes_agenda (v : Byte) (s : State) : (pushRes v s).agenda = s.agenda := rfl
@[simp] theorem pushRes_lineIn (v : Byte) (s : State) : (pushRes v s).lineIn = s.lineIn := rfl

/-! ## popReq -/

@[simp] theorem popReq_txf (r : PendingRequest) (s : State) : (popReq r s).txf = s.txf := rfl
@[simp] theorem popReq_rxf (r : PendingRequest) (s : State) : (popReq r s).rxf = s.rxf := rfl
@[simp] theorem popReq_ch (r : PendingRequest) (s : State) : (popReq r s).ch = s.ch := rfl
@[simp] theorem popReq_cn (r : PendingRequest) (s : State) : (popReq r s).cn = s.cn := rfl
@[simp] theorem popReq_disc (r : PendingRequest) (s : State) : (popReq r s).disc = s.disc := rfl
@[simp] theorem popReq_xres (r : PendingRequest) (s : State) : (popReq r s).xres = s.xres := rfl
@[simp] theorem popReq_lreq (r : PendingRequest) (s : State) : (popReq r s).lreq = s.lreq := rfl
@[simp] theorem popReq_lres (r : PendingRequest) (s : State) : (popReq r s).lres = s.lres := rfl
@[simp] theorem popReq_pv (r : PendingRequest) (s : State) : (popReq r s).pv = s.pv := rfl
@[simp] theorem popReq_cur (r : PendingRequest) (s : State) : (popReq r s).cur = s.cur := rfl
@[simp] theorem popReq_rxb (r : PendingRequest) (s : State) : (popReq r s).rxb = s.rxb := rfl
@[simp] theorem popReq_txb (r : PendingRequest) (s : State) : (popReq r s).txb = s.txb := rfl
@[simp] theorem popReq_xs (r : PendingRequest) (s : State) : (popReq r s).xs = s.xs := rfl
@[simp] theorem popReq_ps (r : PendingRequest) (s : State) : (popReq r s).ps = s.ps := rfl
@[simp] theorem popReq_ss (r : PendingRequest) (s : State) : (popReq r s).ss = s.ss := rfl
@[simp] theorem popReq_ds (r : PendingRequest) (s : State) : (popReq r s).ds = s.ds := rfl
@[simp] theorem popReq_isOpen (r : PendingRequest) (s : State) : (popReq r s).isOpen = s.isOpen := rfl
@[simp] theorem popReq_intr (r : PendingRequest) (s : State) : (popReq r s).intr = s.intr := rfl
@[simp] theorem popReq_doneSw (r : PendingRequest) (s : State) : (popReq r s).doneSw = s.doneSw := rfl
@[simp] theorem popReq_doneDp (r : PendingRequest) (s : State) : (popReq r s).doneDp = s.doneDp := rfl
@[simp] theorem popReq_curv (r : PendingRequest) (s : State) : (popReq r s).curv = s.curv := rfl
@[simp] theorem popReq_csumVerify (r : PendingRequest) (s : State) : (popReq r s).csumVerify = s.csumVerify := rfl
@[simp] theorem popReq_maxDiscard (r : PendingRequest) (s : State) : (popReq r s).maxDiscard = s.maxDiscard := rfl
@[simp] theorem popReq_errlog (r : PendingRequest) (s : State) : (popReq r s).errlog = s.errlog := rfl
@[simp] theorem popReq_reqq (r : PendingRequest) (s : State) : (popReq r s).reqq = fifoPop s.params.qdepthReq s.reqq := rfl
@[simp] theorem popReq_resq (r : PendingRequest) (s : State) : (popReq r s).resq = s.resq := rfl
@[simp] theorem popReq_ev (r : PendingRequest) (s : State) : (popReq r s).ev = s.ev ++ [.pop (.reqq r)] := rfl
@[simp] theorem popReq_params (r : PendingRequest) (s : State) : (popReq r s).params = s.params := rfl
@[simp] theorem popReq_cop (r : PendingRequest) (s : State) : (popReq r s).cop = s.cop := rfl
@[simp] theorem popReq_intrSw (r : PendingRequest) (s : State) : (popReq r s).intrSw = s.intrSw := rfl
@[simp] theorem popReq_intrDp (r : PendingRequest) (s : State) : (popReq r s).intrDp = s.intrDp := rfl
@[simp] theorem popReq_lineOpenOk (r : PendingRequest) (s : State) : (popReq r s).lineOpenOk = s.lineOpenOk := rfl
@[simp] theorem popReq_hostPort (r : PendingRequest) (s : State) : (popReq r s).hostPort = s.hostPort := rfl
@[simp] theorem popReq_codecPort (r : PendingRequest) (s : State) : (popReq r s).codecPort = s.codecPort := rfl
@[simp] theorem popReq_fePort (r : PendingRequest) (s : State) : (popReq r s).fePort = s.fePort := rfl
@[simp] theorem popReq_regPort (r : PendingRequest) (s : State) : (popReq r s).regPort = s.regPort := rfl
@[simp] theorem popReq_txfWritten (r : PendingRequest) (s : State) : (popReq r s).txfWritten = s.txfWritten := rfl
@[simp] theorem popReq_rxfWritten (r : PendingRequest) (s : State) : (popReq r s).rxfWritten = s.rxfWritten := rfl
@[simp] theorem popReq_drawn (r : PendingRequest) (s : State) : (popReq r s).drawn = s.drawn := rfl
@[simp] theorem popReq_feWait (r : PendingRequest) (s : State) : (popReq r s).feWait = s.feWait := rfl
@[simp] theorem popReq_agenda (r : PendingRequest) (s : State) : (popReq r s).agenda = s.agenda := rfl
@[simp] theorem popReq_lineIn (r : PendingRequest) (s : State) : (popReq r s).lineIn = s.lineIn := rfl

/-! ## popRes -/

@[simp] theorem popRes_txf (v : Byte) (s : State) : (popRes v s).txf = s.txf := rfl
@[simp] theorem popRes_rxf (v : Byte) (s : State) : (popRes v s).rxf = s.rxf := rfl
@[simp] theorem popRes_ch (v : Byte) (s : State) : (popRes v s).ch = s.ch := rfl
@[simp] theorem popRes_cn (v : Byte) (s : State) : (popRes v s).cn = s.cn := rfl
@[simp] theorem popRes_disc (v : Byte) (s : State) : (popRes v s).disc = s.disc := rfl
@[simp] theorem popRes_xres (v : Byte) (s : State) : (popRes v s).xres = s.xres := rfl
@[simp] theorem popRes_lreq (v : Byte) (s : State) : (popRes v s).lreq = s.lreq := rfl
@[simp] theorem popRes_lres (v : Byte) (s : State) : (popRes v s).lres = s.lres := rfl
@[simp] theorem popRes_pv (v : Byte) (s : State) : (popRes v s).pv = s.pv := rfl
@[simp] theorem popRes_cur (v : Byte) (s : State) : (popRes v s).cur = s.cur := rfl
@[simp] theorem popRes_rxb (v : Byte) (s : State) : (popRes v s).rxb = s.rxb := rfl
@[simp] theorem popRes_txb (v : Byte) (s : State) : (popRes v s).txb = s.txb := rfl
@[simp] theorem popRes_xs (v : Byte) (s : State) : (popRes v s).xs = s.xs := rfl
@[simp] theorem popRes_ps (v : Byte) (s : State) : (popRes v s).ps = s.ps := rfl
@[simp] theorem popRes_ss (v : Byte) (s : State) : (popRes v s).ss = s.ss := rfl
@[simp] theorem popRes_ds (v : Byte) (s : State) : (popRes v s).ds = s.ds := rfl
@[simp] theorem popRes_isOpen (v : Byte) (s : State) : (popRes v s).isOpen = s.isOpen := rfl
@[simp] theorem popRes_intr (v : Byte) (s : State) : (popRes v s).intr = s.intr := rfl
@[simp] theorem popRes_doneSw (v : Byte) (s : State) : (popRes v s).doneSw = s.doneSw := rfl
@[simp] theorem popRes_doneDp (v : Byte) (s : State) : (popRes v s).doneDp = s.doneDp := rfl
@[simp] theorem popRes_curv (v : Byte) (s : State) : (popRes v s).curv = s.curv := rfl
@[simp] theorem popRes_csumVerify (v : Byte) (s : State) : (popRes v s).csumVerify = s.csumVerify := rfl
@[simp] theorem popRes_maxDiscard (v : Byte) (s : State) : (popRes v s).maxDiscard = s.maxDiscard := rfl
@[simp] theorem popRes_errlog (v : Byte) (s : State) : (popRes v s).errlog = s.errlog := rfl
@[simp] theorem popRes_reqq (v : Byte) (s : State) : (popRes v s).reqq = s.reqq := rfl
@[simp] theorem popRes_resq (v : Byte) (s : State) : (popRes v s).resq = fifoPop s.params.qdepthRes s.resq := rfl
@[simp] theorem popRes_ev (v : Byte) (s : State) : (popRes v s).ev = s.ev ++ [.pop (.resq v)] := rfl
@[simp] theorem popRes_params (v : Byte) (s : State) : (popRes v s).params = s.params := rfl
@[simp] theorem popRes_cop (v : Byte) (s : State) : (popRes v s).cop = s.cop := rfl
@[simp] theorem popRes_intrSw (v : Byte) (s : State) : (popRes v s).intrSw = s.intrSw := rfl
@[simp] theorem popRes_intrDp (v : Byte) (s : State) : (popRes v s).intrDp = s.intrDp := rfl
@[simp] theorem popRes_lineOpenOk (v : Byte) (s : State) : (popRes v s).lineOpenOk = s.lineOpenOk := rfl
@[simp] theorem popRes_hostPort (v : Byte) (s : State) : (popRes v s).hostPort = s.hostPort := rfl
@[simp] theorem popRes_codecPort (v : Byte) (s : State) : (popRes v s).codecPort = s.codecPort := rfl
@[simp] theorem popRes_fePort (v : Byte) (s : State) : (popRes v s).fePort = s.fePort := rfl
@[simp] theorem popRes_regPort (v : Byte) (s : State) : (popRes v s).regPort = s.regPort := rfl
@[simp] theorem popRes_txfWritten (v : Byte) (s : State) : (popRes v s).txfWritten = s.txfWritten := rfl
@[simp] theorem popRes_rxfWritten (v : Byte) (s : State) : (popRes v s).rxfWritten = s.rxfWritten := rfl
@[simp] theorem popRes_drawn (v : Byte) (s : State) : (popRes v s).drawn = s.drawn := rfl
@[simp] theorem popRes_feWait (v : Byte) (s : State) : (popRes v s).feWait = s.feWait := rfl
@[simp] theorem popRes_agenda (v : Byte) (s : State) : (popRes v s).agenda = s.agenda := rfl
@[simp] theorem popRes_lineIn (v : Byte) (s : State) : (popRes v s).lineIn = s.lineIn := rfl

/-! ## afterRead -/

@[simp] theorem afterRead_txf (r : ControlReg) (s : State) : (afterRead r s).txf = s.txf := by
  unfold afterRead; split <;> rfl
@[simp] theorem afterRead_rxf (r : ControlReg) (s : State) : (afterRead r s).rxf = s.rxf := by
  unfold afterRead; split <;> rfl
@[simp] theorem afterRead_ch (r : ControlReg) (s : State) : (afterRead r s).ch = s.ch := by
  unfold afterRead; split <;> rfl
@[simp] theorem afterRead_cn (r : ControlReg) (s : State) : (afterRead r s).cn = s.cn := by
  unfold afterRead; split <;> rfl
@[simp] theorem afterRead_disc (r : ControlReg) (s : State) : (afterRead r s).disc = s.disc := by
  unfold afterRead; split <;> rfl
@[simp] theorem afterRead_xres (r : ControlReg) (s : State) : (afterRead r s).xres = s.xres := by
  unfold afterRead; split <;> rfl
@[simp] theorem afterRead_lreq (r : ControlReg) (s : State) : (afterRead r s).lreq = s.lreq := by
  unfold afterRead; split <;> rfl
@[simp] theorem afterRead_lres (r : ControlReg) (s : State) : (afterRead r s).lres = s.lres := by
  unfold afterRead; split <;> rfl
@[simp] theorem afterRead_pv (r : ControlReg) (s : State) : (afterRead r s).pv = s.pv := by
  unfold afterRead; split <;> rfl
@[simp] theorem afterRead_cur (r : ControlReg) (s : State) : (afterRead r s).cur = s.cur := by
  unfold afterRead; split <;> rfl
@[simp] theorem afterRead_rxb (r : ControlReg) (s : State) : (afterRead r s).rxb = s.rxb := by
  unfold afterRead; split <;> rfl
@[simp] theorem afterRead_txb (r : ControlReg) (s : State) : (afterRead r s).txb = s.txb := by
  unfold afterRead; split <;> rfl
@[simp] theorem afterRead_xs (r : ControlReg) (s : State) : (afterRead r s).xs = s.xs := by
  unfold afterRead; split <;> rfl
@[simp] theorem afterRead_ps (r : ControlReg) (s : State) : (afterRead r s).ps = s.ps := by
  unfold afterRead; split <;> rfl
@[simp] theorem afterRead_ss (r : ControlReg) (s : State) : (afterRead r s).ss = s.ss := by
  unfold afterRead; split <;> rfl
@[simp] theorem afterRead_ds (r : ControlReg) (s : State) : (afterRead r s).ds = s.ds := by
  unfold afterRead; split <;> rfl
@[simp] theorem afterRead_isOpen (r : ControlReg) (s : State) : (afterRead r s).isOpen = s.isOpen := by
  unfold afterRead; split <;> rfl
@[simp] theorem afterRead_intr (r : ControlReg) (s : State) : (afterRead r s).intr = s.intr := by
  unfold afterRead; split <;> rfl
@[simp] theorem afterRead_doneSw (r : ControlReg) (s : State) : (afterRead r s).doneSw = s.doneSw := by
  unfold afterRead; split <;> rfl
@[simp] theorem afterRead_doneDp (r : ControlReg) (s : State) : (afterRead r s).doneDp = s.doneDp := by
  unfold afterRead; split <;> rfl
@[simp] theorem afterRead_curv (r : ControlReg) (s : State) : (afterRead r s).curv = s.curv := by
  unfold afterRead; split <;> rfl
@[simp] theorem afterRead_csumVerify (r : ControlReg) (s : State) : (afterRead r s).csumVerify = s.csumVerify := by
  unfold afterRead; split <;> rfl
@[simp] theorem afterRead_maxDiscard (r : ControlReg) (s : State) : (afterRead r s).maxDiscard = s.maxDiscard := by
  unfold afterRead; split <;> rfl
@[simp] theorem afterRead_errlog (r : ControlReg) (s : State) : (afterRead r s).errlog = s.errlog := by
  unfold afterRead; split <;> rfl
@[simp] theorem afterRead_reqq (r : ControlReg) (s : State) : (afterRead r s).reqq = s.reqq := by
  unfold afterRead; split <;> rfl
@[simp] theorem afterRead_resq (r : ControlReg) (s : State) : (afterRead r s).resq = s.resq := by
  unfold afterRead; split <;> rfl
@[simp] theorem afterRead_ev (r : ControlReg) (s : State) : (afterRead r s).ev = s.ev := by
  unfold afterRead; split <;> rfl
@[simp] theorem afterRead_params (r : ControlReg) (s : State) : (afterRead r s).params = s.params := by
  unfold afterRead; split <;> rfl
@[simp] theorem afterRead_cop (r : ControlReg) (s : State) : (afterRead r s).cop = s.cop := by
  unfold afterRead; split <;> rfl
@[simp] theorem afterRead_intrSw (r : ControlReg) (s : State) : (afterRead r s).intrSw = s.intrSw := by
  unfold afterRead; split <;> rfl
@[simp] theorem afterRead_intrDp (r : ControlReg) (s : State) : (afterRead r s).intrDp = s.intrDp := by
  unfold afterRead; split <;> rfl
@[simp] theorem afterRead_lineOpenOk (r : ControlReg) (s : State) : (afterRead r s).lineOpenOk = s.lineOpenOk := by
  unfold afterRead; split <;> rfl
@[simp] theorem afterRead_hostPort (r : ControlReg) (s : State) : (afterRead r s).hostPort = s.hostPort := by
  unfold afterRead; split <;> rfl
@[simp] theorem afterRead_codecPort (r : ControlReg) (s : State) : (afterRead r s).codecPort = s.codecPort := by
  unfold afterRead; split <;> rfl
@[simp] theorem afterRead_fePort (r : ControlReg) (s : State) : (afterRead r s).fePort = s.fePort := by
  unfold afterRead; split <;> rfl
@[simp] theorem afterRead_regPort (r : ControlReg) (s : State) : (afterRead r s).regPort = s.regPort := by
  unfold afterRead; split <;> rfl
@[simp] theorem afterRead_txfWritten (r : ControlReg) (s : State) : (afterRead r s).txfWritten = s.txfWritten := by
  unfold afterRead; split <;> rfl
@[simp] theorem afterRead_rxfWritten (r : ControlReg) (s : State) : (afterRead r s).rxfWritten = s.rxfWritten := by
  unfold afterRead; split <;> rfl
@[simp] theorem afterRead_feWait (r : ControlReg) (s : State) : (afterRead r s).feWait = s.feWait := by
  unfold afterRead; split <;> rfl
@[simp] theorem afterRead_agenda (r : ControlReg) (s : State) : (afterRead r s).agenda = s.agenda := by
  unfold afterRead; split <;> rfl
@[simp] theorem afterRead_lineIn (r : ControlReg) (s : State) : (afterRead r s).lineIn = s.lineIn := by
  unfold afterRead; split <;> rfl

end Sys2Proof.Machine
end

