-- ==== Sys2Proof/Laws/Ops.lean ====
section
/-! SUPPORT. For each shared operation, one lemma that says once everything it can do. -/

namespace Sys2Proof.Machine

/-! ## The line and the FIFOs -/

/-- An arrival appends its byte, when open with room, or changes nothing. -/
theorem rxArrive_cases (b : Byte) (s : State) :
    (s.isOpen = true ∧ hasRoom s.params.rxbDepth s.rxb.length 1 = true ∧ rxArrive b s = { s with rxb := s.rxb ++ [b] })
    ∨ ((s.isOpen = false ∨ hasRoom s.params.rxbDepth s.rxb.length 1 = false) ∧ rxArrive b s = s) := by
  unfold rxArrive
  by_cases ho : s.isOpen = true <;> by_cases hr : hasRoom s.params.rxbDepth s.rxb.length 1 = true <;> simp_all

/-- A visible entry is the head of the items. -/
theorem fifoHead_some {α : Type} {q : Fifo α} {v : α} (h : fifoHead q = some v) :
    0 < q.vis ∧ ∃ rest, q.items = v :: rest := by
  unfold fifoHead at h
  split at h
  · rename_i hv
    exact ⟨hv, List.head?_eq_some_iff.mp h⟩
  · cases h

/-- A front-end push is the entries pushed and the port completed, and there was room. -/
theorem fePush_some {r : FeRequest} {s t : State} (h : fePush r s = some t) :
    fifoRoom s.params.qdepthReq s.reqq (feEntries r s).length = true ∧
      t = complete .frontEnd .unit (pushAll (feEntries r s) s) := by
  unfold fePush at h
  split at h
  · rename_i hr; exact ⟨hr, by simpa using h.symm⟩
  · cases h

/-! ## The owner's step -/

/-- Everything one step of the owner can be (R188, R208). -/
theorem ownerStep_cases {s t : State} (h : ownerStep s = some t) :
    (s.xs = .flush ∧ t = xFlush s) ∨ (s.xs = .write ∧ t = xWrite s)
    ∨ (∃ b rest, s.xs = .read ∧ s.rxb = b :: rest ∧ s.cn < 4 ∧ t = xTake b rest s)
    ∨ (s.xs = .pace ∧ t = xPace s)
    ∨ (∃ card, s.xs = .idle ∧ s.cop = .pulseSet card ∧ t = pulseOnStep card s)
    ∨ (∃ card, s.xs = .idle ∧ s.cop = .pulseHold card ∧ t = pulseHoldStep card s)
    ∨ (∃ card, s.xs = .idle ∧ s.cop = .pulseClear card ∧ t = pulseOffStep card s) := by
  unfold ownerStep at h
  split at h
  · rename_i hx; exact .inl ⟨hx, by simpa using h.symm⟩
  · rename_i hx; exact .inr (.inl ⟨hx, by simpa using h.symm⟩)
  · rename_i hx
    split at h
    · cases h
    · rename_i b rest hr
      split at h
      · rename_i hc; exact .inr (.inr (.inl ⟨b, rest, hx, hr, hc, by simpa using h.symm⟩))
      · cases h
  · rename_i hx; exact .inr (.inr (.inr (.inl ⟨hx, by simpa using h.symm⟩)))
  · rename_i hx
    split at h
    · rename_i card hc; exact .inr (.inr (.inr (.inr (.inl ⟨card, hx, hc, by simpa using h.symm⟩))))
    · rename_i card hc; exact .inr (.inr (.inr (.inr (.inr (.inl ⟨card, hx, hc, by simpa using h.symm⟩)))))
    · rename_i card hc; exact .inr (.inr (.inr (.inr (.inr (.inr ⟨card, hx, hc, by simpa using h.symm⟩)))))
    · cases h

/-- With no operation in progress, the owner has no step. -/
theorem ownerStep_idle {s : State} (hx : s.xs = .idle) (hc : s.cop = .none) : ownerStep s = none := by
  unfold ownerStep; rw [hx]; simp [hc]

/-- A reader with nothing to take waits. -/
theorem ownerStep_waiting {s : State} (hx : s.xs = .read) (hr : s.rxb = []) : ownerStep s = none := by
  unfold ownerStep; rw [hx]; simp [hr]

/-- A run of the owner stops where it has no step. -/
@[simp] theorem runOwner_of_none {s : State} (h : ownerStep s = none) (n : Nat) : runOwner n s = s := by
  cases n <;> simp [runOwner, h]

/-- A run of the owner takes its step. -/
theorem runOwner_of_some {s t : State} (h : ownerStep s = some t) (n : Nat) : runOwner (n + 1) s = runOwner n t := by
  simp [runOwner, h]

/-- What every step of the owner keeps, a run of it keeps. -/
theorem runOwner_keeps {P : State → Prop} (own : ∀ s t, P s → ownerStep s = some t → P t) :
    ∀ n s, P s → P (runOwner n s) := by
  intro n
  induction n with
  | zero => intro s h; exact h
  | succ n ih =>
    intro s h
    unfold runOwner
    split
    · exact h
    · rename_i t ht; exact ih t (own s t h ht)

/-- What the owner's steps, the line and the bookkeeping of `lineIn` keep, a whole operation keeps. -/
theorem drive_keeps {P : State → Prop} (own : ∀ s t, P s → ownerStep s = some t → P t)
    (line : ∀ a s, P s → P (lineAct a s)) (left : ∀ s l, P s → P { s with lineIn := l }) :
    ∀ acts s, P s → P (drive acts s) := by
  intro acts
  induction acts with
  | nil => intro s h; exact left _ _ (runOwner_keeps own _ _ h)
  | cons a rest ih =>
    intro s h
    have ha := runOwner_keeps own (s.rxb.length + 8) s h
    unfold drive
    dsimp only
    split
    · exact ih _ (line a _ ha)
    · exact left _ _ ha

/-! ## The direct port -/

/-- What an access to a control register that is not refused does: HOST holds the transport or reads STATUS, and only
the answer and the count of the free values drawn change. -/
theorem readControl_next {r : ControlReg} {s t : State} (h : readControl r s = .next t) :
    (r = .status ∨ hostHolds s = true) ∧ (needsIdle r = true → s.xs = .idle)
      ∧ t = { afterRead r s with regPort := .ok (regValue r s) } := by
  unfold readControl regAnswer at h
  split at h
  · cases h
  · split at h
    · cases h
    · rename_i h1 h2
      refine ⟨?_, ?_, by simpa using h.symm⟩
      · by_cases hr : r = .status
        · exact .inl hr
        · simp [hr] at h1; exact .inr h1
      · intro hn; simpa [hn] using h2

/-- A read leaves everything but the count of the free values drawn. -/
theorem afterRead_cases (r : ControlReg) (s : State) :
    (drawsValue r s = true ∧ afterRead r s = { s with drawn := s.drawn + 1 })
    ∨ (drawsValue r s = false ∧ afterRead r s = s) := by
  unfold afterRead
  cases drawsValue r s <;> simp

/-- What a write of a control register that is not refused does. -/
theorem writeControl_next {f : State → State} {s t : State} (h : writeControl f s = .next t) :
    hostHolds s = true ∧ s.xs = .idle ∧ t = { f s with regPort := .ok .unit } := by
  unfold writeControl regAnswer at h
  split at h
  · cases h
  · split at h
    · cases h
    · rename_i h1 h2
      exact ⟨by simpa using h1, by simpa using h2, by simpa using h.symm⟩

/-- A direct request that is not refused found HOST holding the idle transport, and its next state is its first
step's. -/
theorem issueRequest_next {r : ClientRequest} {s t : State} (h : issueRequest r s = .next t) :
    hostHolds s = true ∧ transportIdle s = true ∧ requestCodeOk r s = true ∧ t = startRequest r s := by
  unfold issueRequest at h
  split at h
  · cases h
  · split at h
    · cases h
    · split at h
      · cases h
      · simp_all

/-- A whole direct operation is its first step, driven. -/
theorem runRequest_next {r : ClientRequest} {s t : State} (h : runRequest r s = .next t) :
    ∃ u, issueRequest r s = .next u ∧ t = driveOp u := by
  unfold runRequest andThen at h
  split at h
  · rename_i u hu; exact ⟨u, hu, by simpa using h.symm⟩
  · cases h
  · cases h

/-- With HOST ready and an acceptable command byte, a direct request is its first step. -/
theorem issueRequest_ready {r : ClientRequest} {s : State} (hh : hostHolds s = true) (hi : transportIdle s = true)
    (hc : requestCodeOk r s = true) :
    issueRequest r s = .next (startRequest r s) := by
  simp [issueRequest, hh, hi, hc]

/-- What the start of raw COMMUNICATE makes of TXF: once written it stays as it is, and else it takes the free value
whose number is the count. -/
theorem takeRequest_cases (s : State) :
    (s.txfWritten = true ∧ takeRequest s = s)
    ∨ (s.txfWritten = false
      ∧ takeRequest s = { s with txf := anyQuad s.drawn, txfWritten := true, drawn := s.drawn + 1 }) := by
  cases h : s.txfWritten
  · exact .inr ⟨rfl, by simp [takeRequest, writeTxf, rawRequest, quadView, rawDraws, h]⟩
  · refine .inl ⟨rfl, ?_⟩
    obtain ⟨⟩ := s
    cases h
    rfl

/-- TXF has been written when an exchange of raw COMMUNICATE starts. -/
@[simp] theorem takeRequest_txfWritten (s : State) : (takeRequest s).txfWritten = true := rfl

/-- Nothing but TXF and the count is touched: the transport stays as open as it was. -/
@[simp] theorem takeRequest_isOpen (s : State) : (takeRequest s).isOpen = s.isOpen := rfl

end Sys2Proof.Machine
end

