-- ==== Sys2Proof/Laws/Exchange.lean ====
section
/-! SUPPORT. Running the owner of an exchange: it always comes to a wait, and what the run of an exchange is when the
line answers with one full chunk, or with nothing. -/

namespace Sys2Proof.Machine

/-! ## The owner comes to a wait -/

/-- A bound on the steps the owner takes before it waits. -/
def ownerRank (s : State) : Nat :=
  match s.xs with
  | .idle =>
    match s.cop with
    | .pulseSet _ => 3
    | .pulseHold _ => 4
    | .pulseClear _ => 3
    | _ => 0
  | .flush => 2
  | .write => if s.rxb = [] then 1 else s.rxb.length + 6
  | .read => if s.rxb = [] then 0 else s.rxb.length + 5
  | .pace => 5

theorem ownerRank_le (s : State) : ownerRank s ≤ s.rxb.length + 6 := by
  unfold ownerRank
  split
  · split <;> omega
  · omega
  · split <;> omega
  · split <;> omega
  · omega

theorem startExchange_xs (op : ClientOp) (s : State) (h : s.xs = .idle) :
    (startExchange op s).xs = .flush ∨ ((startExchange op s).xs = .idle ∧ (startExchange op s).cop = .none) := by
  unfold startExchange
  split
  · left; unfold markBusy; split <;> rfl
  · right
    unfold opFail raise
    cases clientAsker s <;> exact ⟨h, rfl⟩

theorem opFail_idle (e : Error) (s : State) (h : s.xs = .idle) : (opFail e s).xs = .idle ∧ (opFail e s).cop = .none := by
  unfold opFail raise
  cases clientAsker s <;> exact ⟨h, rfl⟩

theorem opDone_idle (v : PortValue) (s : State) (h : s.xs = .idle) :
    (opDone v s).xs = .idle ∧ (opDone v s).cop = .none := by
  unfold opDone complete
  cases clientAsker s
  · exact ⟨h, rfl⟩
  · exact ⟨h, rfl⟩
  · exact ⟨h, rfl⟩
  · cases v <;> exact ⟨h, rfl⟩

/-- After the exchange of a client operation: unchanged, ended, or its rest. -/
theorem afterExchange_cases (c : Byte) (k : State → State) (s : State) :
    (s.xres = .none ∧ afterExchange c k s = s) ∨ (∃ e, afterExchange c k s = opFail e s) ∨ afterExchange c k s = k s := by
  unfold afterExchange
  split
  · exact .inl ⟨‹_›, rfl⟩
  · exact .inr (.inl ⟨_, rfl⟩)
  · split
    · exact .inr (.inl ⟨_, rfl⟩)
    · exact .inr (.inr rfl)

theorem ownerRank_idle_le {s : State} (h : s.xs = .idle) : ownerRank s ≤ 4 := by
  unfold ownerRank; rw [h]; dsimp only; split <;> omega

theorem ownerRank_start (op : ClientOp) (s : State) (h : s.xs = .idle) : ownerRank (startExchange op s) ≤ 2 := by
  rcases startExchange_xs op s h with h1 | ⟨h1, h2⟩ <;> unfold ownerRank <;> rw [h1]
  simp [h2]

/-- When an operation goes on after the pace wait, XS stays idle. -/
theorem opReturn_idle (s : State) (h : s.xs = .idle) : (opReturn s).xs = .idle := by
  have after : ∀ c k, (k s).xs = .idle → (afterExchange c k s).xs = .idle := by
    intro c k hk
    rcases afterExchange_cases c k s with ⟨-, e⟩ | ⟨x, e⟩ | e <;> rw [e]
    · exact h
    · exact (opFail_idle x s h).1
    · exact hk
  unfold opReturn
  split
  · exact h
  · unfold afterRaw
    split
    · exact h
    · exact (opFail_idle _ s h).1
    · exact (opDone_idle _ s h).1
  · exact after _ _ (opDone_idle _ s h).1
  · exact after _ _ (opDone_idle _ s h).1
  · exact after _ _ (opDone_idle _ s h).1
  · exact after _ _ (opDone_idle _ s h).1
  · exact after _ _ h
  · exact h
  · exact after _ _ h
  · exact h
  · exact h
  · exact after _ _ (opDone_idle _ s h).1

/-- The pace step ends in `X_IDLE` (R184, R188). -/
theorem xPace_idle (s : State) : (xPace s).xs = .idle := opReturn_idle _ rfl

/-- The evaluation of a chunk ends in the pace wait or in the next chunk read, with RXB as it was. -/
theorem endChunk_xs (s : State) : (endChunk s).rxb = s.rxb ∧ ((endChunk s).xs = .pace ∨ (endChunk s).xs = s.xs) := by
  unfold endChunk evalChunk acceptChunk garbageChunk
  split
  · exact ⟨rfl, .inl rfl⟩
  · split
    · split
      · exact ⟨rfl, .inl rfl⟩
      · dsimp only
        split <;> exact ⟨rfl, .inl rfl⟩
    · split
      · exact ⟨rfl, .inr rfl⟩
      · split
        · exact ⟨rfl, .inl rfl⟩
        · exact ⟨rfl, .inr rfl⟩

/-- Every step of the owner brings it nearer to its wait. -/
theorem ownerRank_step {s t : State} (h : ownerStep s = some t) : ownerRank t < ownerRank s := by
  rcases ownerStep_cases h with ⟨hx, rfl⟩ | ⟨hx, rfl⟩ | ⟨b, rest, hx, hr, hc, rfl⟩ | ⟨hx, rfl⟩ |
    ⟨card, hx, hc, rfl⟩ | ⟨card, hx, hc, rfl⟩ | ⟨card, hx, hc, rfl⟩
  · have h2 : ownerRank s = 2 := by simp [ownerRank, hx]
    have h1 : ownerRank (xFlush s) = 1 := rfl
    omega
  · by_cases hr : s.rxb = []
    · have h1 : ownerRank s = 1 := by simp [ownerRank, hx, hr]
      have h0 : ownerRank (xWrite s) = 0 := by
        show (if s.rxb = [] then 0 else s.rxb.length + 5) = 0
        simp [hr]
      omega
    · have h1 : ownerRank s = s.rxb.length + 6 := by simp [ownerRank, hx, hr]
      have h0 : ownerRank (xWrite s) = s.rxb.length + 5 := by
        show (if s.rxb = [] then 0 else s.rxb.length + 5) = s.rxb.length + 5
        simp [hr]
      omega
  · have h1 : ownerRank s = rest.length + 6 := by simp [ownerRank, hx, hr]
    have key : ∀ u : State, u.rxb = rest → (u.xs = .pace ∨ u.xs = .read) → ownerRank u < rest.length + 6 := by
      intro u hu hxs
      rcases hxs with hp | hp <;> unfold ownerRank <;> rw [hp]
      · dsimp only; omega
      · dsimp only; rw [hu]; split <;> omega
    rw [h1]
    refine key _ ?_ ?_
    · unfold xTake; dsimp only; split
      · exact (endChunk_xs _).1
      · rfl
    · unfold xTake; dsimp only; split
      · rcases (endChunk_xs (takeByte b rest s)).2 with h | h
        · exact .inl h
        · exact .inr (h.trans hx)
      · exact .inr hx
  · have h5 : ownerRank s = 5 := by simp [ownerRank, hx]
    have := ownerRank_idle_le (xPace_idle s)
    omega
  · have h3 : ownerRank s = 3 := by simp [ownerRank, hx, hc]
    have : ownerRank (pulseOnStep card s) ≤ 2 := ownerRank_start _ _ hx
    omega
  · have h4 : ownerRank s = 4 := by simp [ownerRank, hx, hc]
    have : ownerRank (pulseHoldStep card s) = 3 := by
      show (match s.xs with
        | .idle => 3
        | .flush => 2
        | .write => if s.rxb = [] then 1 else s.rxb.length + 6
        | .read => if s.rxb = [] then 0 else s.rxb.length + 5
        | .pace => 5) = 3
      rw [hx]
    omega
  · have h3 : ownerRank s = 3 := by simp [ownerRank, hx, hc]
    have : ownerRank (pulseOffStep card s) ≤ 2 := ownerRank_start _ _ hx
    omega

theorem runOwner_quiet : ∀ (n : Nat) (s : State), ownerRank s ≤ n → ownerStep (runOwner n s) = none := by
  intro n
  induction n with
  | zero =>
    intro s h
    cases ho : ownerStep s with
    | none => exact ho
    | some t => have := ownerRank_step ho; omega
  | succ n ih =>
    intro s h
    unfold runOwner
    split
    · assumption
    · rename_i t ht
      have := ownerRank_step ht
      exact ih t (by omega)

/-- Running the owner leaves it with no step. -/
theorem advance_quiet (s : State) : ownerStep (advance s) = none :=
  runOwner_quiet _ _ (Nat.le_trans (ownerRank_le s) (by omega))

/-- Fuel beyond the rank changes nothing. -/
theorem runOwner_enough : ∀ (n m : Nat) (s : State), ownerRank s ≤ n → ownerRank s ≤ m → runOwner n s = runOwner m s := by
  intro n
  induction n with
  | zero =>
    intro m s hn hm
    cases ho : ownerStep s with
    | none => simp [ho]
    | some t => have := ownerRank_step ho; omega
  | succ n ih =>
    intro m s hn hm
    cases ho : ownerStep s with
    | none => simp [ho]
    | some t =>
      have hr := ownerRank_step ho
      cases m with
      | zero => omega
      | succ m =>
        rw [runOwner_of_some ho, runOwner_of_some ho]
        exact ih m t (by omega) (by omega)

/-- Running the owner begins with its step. -/
theorem advance_of_some {s t : State} (h : ownerStep s = some t) : advance s = advance t := by
  unfold advance
  rw [runOwner_of_some h]
  have := ownerRank_step h
  have hs := ownerRank_le s
  have ht := ownerRank_le t
  exact runOwner_enough _ _ _ (by omega) (by omega)

/-- An owner that has no step stays. -/
theorem advance_of_none {s : State} (h : ownerStep s = none) : advance s = s := runOwner_of_none h _

/-- Advancing twice is advancing once. -/
@[simp] theorem advance_advance (s : State) : advance (advance s) = advance s := advance_of_none (advance_quiet s)

/-- A driven operation depends on its state only through where the owner comes to. -/
theorem drive_congr {s t : State} (h : advance s = advance t) (acts : List LineAct) : drive acts s = drive acts t := by
  cases acts <;> simp [drive, h]

/-- A driven operation that does not wait for the line leaves the rest of the acts. -/
theorem drive_done {s : State} (h : (advance s).xs ≠ .read) (acts : List LineAct) :
    drive acts s = { advance s with lineIn := acts } := by
  cases acts with
  | nil => rfl
  | cons a rest => simp [drive, h]

/-! ## One exchange -/

/-- An exchange that has flushed, written its request, and waits for its first byte. -/
def requested (s : State) : State :=
  { s with rxb := [], txb := [], xs := .read, cn := 0, ev := s.ev ++ [.flush, .tx s.txf.b0 s.txf.b1 s.txf.b2 s.txf.b3] }

/-- An exchange that has just started flushes, writes its request, and waits. -/
theorem advance_flush {s : State} (hx : s.xs = .flush) : advance s = requested s := by
  rw [advance_of_some (t := xFlush s) (by simp [ownerStep, hx]),
    advance_of_some (t := xWrite (xFlush s)) (by simp [ownerStep, xFlush]),
    advance_of_none (ownerStep_waiting rfl rfl)]
  simp [xFlush, xWrite, flushLine, memWrite, emit, requested]

/-- Driving an exchange that has just started is driving it from its first wait. -/
theorem drive_flush {s : State} (hx : s.xs = .flush) (acts : List LineAct) : drive acts s = drive acts (requested s) := by
  refine drive_congr ?_ acts
  rw [advance_flush hx, advance_of_none (ownerStep_waiting rfl rfl)]

/-- A reader takes a byte that does not fill its chunk, and waits. -/
theorem advance_take {s : State} {b : Byte} (hx : s.xs = .read) (hr : s.rxb = [b]) (hc : s.cn < 3) :
    advance s = { s with rxb := [], ch := putByte s.ch s.cn b, cn := s.cn + 1, ev := s.ev ++ [.rxTake b] } := by
  have h4 : s.cn < 4 := by omega
  have h5 : ¬ s.cn + 1 = 4 := by omega
  rw [advance_of_some (t := xTake b [] s) (by simp [ownerStep, hx, hr, h4])]
  have : xTake b [] s = { s with rxb := [], ch := putByte s.ch s.cn b, cn := s.cn + 1, ev := s.ev ++ [.rxTake b] } := by
    simp [xTake, takeByte, emit, h5]
  rw [this]
  exact advance_of_none (ownerStep_waiting hx rfl)

/-- A byte that arrives at an empty, usable RXB. -/
theorem rxArrive_usable {s : State} (b : Byte) (ho : s.isOpen = true) (hr : s.rxb = []) (hu : rxbUsable s) :
    rxArrive b s = { s with rxb := [b] } := by
  have h1 : hasRoom s.params.rxbDepth 0 1 = true := hu
  simp [rxArrive, ho, hr, h1]

/-- A waiting reader that is given a byte takes it, and evaluates the chunk when it is the fourth. -/
theorem drive_arrive {s : State} (b : Byte) (rest : List LineAct) (hx : s.xs = .read) (hn : s.cn < 4) (hr : s.rxb = [])
    (ho : s.isOpen = true) (hu : rxbUsable s) :
    drive (.arrive b :: rest) s = drive rest (xTake b [] { s with rxb := [b] }) := by
  have h0 : advance s = s := advance_of_none (ownerStep_waiting hx hr)
  have h1 : drive (.arrive b :: rest) s = drive rest (rxArrive b s) := by simp [drive, h0, hx, lineAct]
  rw [h1, rxArrive_usable b ho hr hu]
  exact drive_congr (advance_of_some (by simp [ownerStep, hx, hn])) rest

/-- What a full chunk leaves when its reader has taken it all but not evaluated it. -/
def chunkTaken (c : Quad) (s : State) : State :=
  { s with ch := c, cn := 4, rxb := [], ev := s.ev ++ [.rxTake c.b0, .rxTake c.b1, .rxTake c.b2, .rxTake c.b3] }

/-- A reader that has taken one more byte. -/
def tookByte (b : Byte) (s : State) : State :=
  { s with rxb := [], ch := putByte s.ch s.cn b, cn := s.cn + 1, ev := s.ev ++ [.rxTake b] }

/-- A byte that does not fill the chunk is only taken. -/
theorem drive_byte {s : State} (b : Byte) (rest : List LineAct) (hx : s.xs = .read) (hn : s.cn < 3) (hr : s.rxb = [])
    (ho : s.isOpen = true) (hu : rxbUsable s) :
    drive (.arrive b :: rest) s = drive rest (tookByte b s) := by
  have h5 : ¬ s.cn + 1 = 4 := by omega
  rw [drive_arrive b rest hx (by omega) hr ho hu]
  simp [xTake, takeByte, emit, h5, tookByte]

/-- A waiting reader that is given the four bytes of a chunk takes them and evaluates the chunk. -/
theorem drive_chunk {s : State} (c : Quad) (rest : List LineAct) (hx : s.xs = .read) (hn : s.cn = 0) (hr : s.rxb = [])
    (ho : s.isOpen = true) (hu : rxbUsable s) :
    drive (quadActs c ++ rest) s = drive rest (endChunk (chunkTaken c s)) := by
  have n1 : (tookByte c.b0 s).cn = 1 := by simp [tookByte, hn]
  have n2 : (tookByte c.b1 (tookByte c.b0 s)).cn = 2 := by simp [tookByte, hn]
  have n3 : (tookByte c.b2 (tookByte c.b1 (tookByte c.b0 s))).cn = 3 := by simp [tookByte, hn]
  simp only [quadActs, List.cons_append, List.nil_append]
  rw [drive_byte c.b0 _ hx (by omega) hr ho hu,
    drive_byte (s := tookByte c.b0 s) c.b1 _ hx (by omega) rfl ho hu,
    drive_byte (s := tookByte c.b1 (tookByte c.b0 s)) c.b2 _ hx (by omega) rfl ho hu,
    drive_arrive (s := tookByte c.b2 (tookByte c.b1 (tookByte c.b0 s))) c.b3 _ hx (by omega) rfl ho hu]
  congr 1
  simp [xTake, takeByte, emit, hn, chunkTaken, putByte, tookByte]

/-- A waiting reader whose first byte never comes. -/
theorem drive_silence {s : State} (rest : List LineAct) (hx : s.xs = .read) (hn : s.cn < 4) (hr : s.rxb = []) :
    drive (.silence :: rest) s = drive rest (endChunk s) := by
  have h0 : advance s = s := advance_of_none (ownerStep_waiting hx hr)
  simp [drive, h0, hx, lineAct, readTimeout, hn, hr]

/-- An exchange whose reader has accepted the chunk `c` and waits its pace. -/
def accepted (c : Quad) (s : State) : State :=
  { s with
    ch := c, cn := 4, rxb := [], rxf := c, rxfWritten := true, xres := .ok, xs := .pace
    ev := s.ev ++ [.rxTake c.b0, .rxTake c.b1, .rxTake c.b2, .rxTake c.b3,
      .chunkDone [c.b0, c.b1, c.b2, c.b3], .accept c.b0 c.b1 c.b2 c.b3] }

/-- The evaluation of an accepted chunk. -/
theorem endChunk_accept {s : State} (c : Quad) (hc : 0xF0 ≤ c.b0.toNat) (hk : checkPasses s c) :
    endChunk (chunkTaken c s) = accepted c s := by
  have h1 : isCandidate c.b0 = true := by simpa [isCandidate, resyncThreshold] using hc
  have h2 : (s.csumVerify && checksumBad c) = false := by
    rcases hk with h | h
    · simp [h]
    · simp [checksumBad, csum, h]
  simp [endChunk, evalChunk, chunkTaken, emit, h1, acceptChunk, h2, writeRxf, verdict, chunkBytes, Quad.toList,
    accepted]

/-- An exchange that has just started and is given an acceptable chunk comes to its pace wait. -/
theorem drive_accept {s : State} (c : Quad) (rest : List LineAct) (hx : s.xs = .flush) (ho : s.isOpen = true)
    (hu : rxbUsable s) (hc : 0xF0 ≤ c.b0.toNat) (hk : checkPasses s c) :
    drive (quadActs c ++ rest) s = drive rest (accepted c (requested s)) := by
  rw [drive_flush hx, drive_chunk (s := requested s) c rest rfl rfl rfl ho hu]
  congr 1
  exact endChunk_accept (s := requested s) c hc hk

/-- A pace wait after which the owner has no step ends the operation. -/
theorem drive_pace {s : State} (rest : List LineAct) (hx : s.xs = .pace) (h : ownerStep (xPace s) = none)
    (hr : (xPace s).xs ≠ .read) : drive rest s = { xPace s with lineIn := rest } := by
  have ha : advance s = xPace s := by
    rw [advance_of_some (t := xPace s) (by simp [ownerStep, hx]), advance_of_none h]
  rw [drive_done (by rw [ha]; exact hr), ha]

/-- An operation that has just started its exchange, the line answering with an acceptable chunk. -/
theorem driveOp_accept {s : State} (c : Quad) (rest : List LineAct) (hx : s.xs = .flush) (ho : s.isOpen = true)
    (hu : rxbUsable s) (hc : 0xF0 ≤ c.b0.toNat) (hk : checkPasses s c) (hl : s.lineIn = quadActs c ++ rest) :
    driveOp s = drive rest (accepted c (requested s)) := by
  unfold driveOp
  rw [hl, drive_accept c rest hx ho hu hc hk]

/-- An operation that has just started its exchange, the line staying silent. -/
theorem driveOp_silence {s : State} (rest : List LineAct) (hx : s.xs = .flush) (hl : s.lineIn = .silence :: rest) :
    driveOp s = drive rest (endChunk (requested s)) := by
  unfold driveOp
  rw [hl, drive_flush hx, drive_silence (s := requested s) rest rfl (by show 0 < 4; omega) rfl]

/-- With HOST ready, SWITCHER is not exchanging and the transport is idle. -/
theorem hostReady_idle {s : State} (h : hostReady s) : s.ss ≠ .exch ∧ s.xs = .idle ∧ s.ps = .idle := by
  obtain ⟨h1, h2⟩ := h
  refine ⟨?_, by simpa [transportIdle] using h2⟩
  intro h
  simp [hostHolds, h] at h1

/-- HOST's operation `op` with its exchange just started. -/
def started (op : ClientOp) (s : State) : State :=
  { s with disc := 0, xres := .none, xs := .flush, cop := op, hostPort := .busy }

/-- HOST starts an exchange on an open transport. -/
theorem startExchange_open {s : State} (op : ClientOp) (ho : s.isOpen = true) (hs : s.ss ≠ .exch) :
    startExchange op s = started op s := by
  simp [startExchange, ho, markBusy, hs, started]

/-- Raw COMMUNICATE on an open transport starts the exchange of the request it takes from TXF. -/
theorem startRaw_open {s : State} (ho : s.isOpen = true) (hs : s.ss ≠ .exch) :
    startRaw s = started .raw (takeRequest s) := by
  rw [startRaw, if_pos ho, startExchange_open (s := takeRequest s) .raw ho hs]

end Sys2Proof.Machine
end

