-- ==== Sys2Proof/Laws/PerInstr.lean ====
section
/-! SUPPORT. The statements made per instruction: one family, `FrameLength`. -/

/-- Every encoding is four bytes long (R61, R103); the port operations have none (R112). -/
def Sys2Proof.Laws.FrameLength.Statement (i : Sys2Proof.Instr) : Prop :=
  ∀ bs : List Sys2Proof.Byte, Sys2Proof.encode i = some bs → bs.length = 4

/-- An instruction whose encoding is four given bytes. -/
theorem Sys2Proof.Laws.FrameLength.of_some (i : Sys2Proof.Instr) (b0 b1 b2 b3 : Sys2Proof.Byte)
    (h : Sys2Proof.encode i = some [b0, b1, b2, b3]) : Sys2Proof.Laws.FrameLength.Statement i := by
  intro bs hb
  rw [h, Option.some.injEq] at hb
  subst hb
  rfl

/-- An instruction without an encoding. -/
theorem Sys2Proof.Laws.FrameLength.of_none (i : Sys2Proof.Instr) (h : Sys2Proof.encode i = none) :
    Sys2Proof.Laws.FrameLength.Statement i := by
  intro bs hb
  rw [h] at hb
  cases hb

theorem Sys2Proof.Laws.FrameLength.noop (a d x : Sys2Proof.Byte) :
    Sys2Proof.Laws.FrameLength.Statement (.noop a d x) :=
  Sys2Proof.Laws.FrameLength.of_some _ _ _ _ _ rfl

theorem Sys2Proof.Laws.FrameLength.setup (a d x : Sys2Proof.Byte) :
    Sys2Proof.Laws.FrameLength.Statement (.setup a d x) :=
  Sys2Proof.Laws.FrameLength.of_some _ _ _ _ _ rfl

theorem Sys2Proof.Laws.FrameLength.getport (a d x : Sys2Proof.Byte) :
    Sys2Proof.Laws.FrameLength.Statement (.getport a d x) :=
  Sys2Proof.Laws.FrameLength.of_some _ _ _ _ _ rfl

theorem Sys2Proof.Laws.FrameLength.setport (a d x : Sys2Proof.Byte) :
    Sys2Proof.Laws.FrameLength.Statement (.setport a d x) :=
  Sys2Proof.Laws.FrameLength.of_some _ _ _ _ _ rfl

theorem Sys2Proof.Laws.FrameLength.getoption (a d x : Sys2Proof.Byte) :
    Sys2Proof.Laws.FrameLength.Statement (.getoption a d x) :=
  Sys2Proof.Laws.FrameLength.of_some _ _ _ _ _ rfl

theorem Sys2Proof.Laws.FrameLength.setoption (a d x : Sys2Proof.Byte) :
    Sys2Proof.Laws.FrameLength.Statement (.setoption a d x) :=
  Sys2Proof.Laws.FrameLength.of_some _ _ _ _ _ rfl

theorem Sys2Proof.Laws.FrameLength.setsingle (a d x : Sys2Proof.Byte) :
    Sys2Proof.Laws.FrameLength.Statement (.setsingle a d x) :=
  Sys2Proof.Laws.FrameLength.of_some _ _ _ _ _ rfl

theorem Sys2Proof.Laws.FrameLength.delsingle (a d x : Sys2Proof.Byte) :
    Sys2Proof.Laws.FrameLength.Statement (.delsingle a d x) :=
  Sys2Proof.Laws.FrameLength.of_some _ _ _ _ _ rfl

theorem Sys2Proof.Laws.FrameLength.toggle (a d x : Sys2Proof.Byte) :
    Sys2Proof.Laws.FrameLength.Statement (.toggle a d x) :=
  Sys2Proof.Laws.FrameLength.of_some _ _ _ _ _ rfl

theorem Sys2Proof.Laws.FrameLength.rNoop (a d x : Sys2Proof.Byte) :
    Sys2Proof.Laws.FrameLength.Statement (.rNoop a d x) :=
  Sys2Proof.Laws.FrameLength.of_some _ _ _ _ _ rfl

theorem Sys2Proof.Laws.FrameLength.rSetup (a d x : Sys2Proof.Byte) :
    Sys2Proof.Laws.FrameLength.Statement (.rSetup a d x) :=
  Sys2Proof.Laws.FrameLength.of_some _ _ _ _ _ rfl

theorem Sys2Proof.Laws.FrameLength.rGetport (a d x : Sys2Proof.Byte) :
    Sys2Proof.Laws.FrameLength.Statement (.rGetport a d x) :=
  Sys2Proof.Laws.FrameLength.of_some _ _ _ _ _ rfl

theorem Sys2Proof.Laws.FrameLength.rSetport (a d x : Sys2Proof.Byte) :
    Sys2Proof.Laws.FrameLength.Statement (.rSetport a d x) :=
  Sys2Proof.Laws.FrameLength.of_some _ _ _ _ _ rfl

theorem Sys2Proof.Laws.FrameLength.rGetoption (a d x : Sys2Proof.Byte) :
    Sys2Proof.Laws.FrameLength.Statement (.rGetoption a d x) :=
  Sys2Proof.Laws.FrameLength.of_some _ _ _ _ _ rfl

theorem Sys2Proof.Laws.FrameLength.rSetoption (a d x : Sys2Proof.Byte) :
    Sys2Proof.Laws.FrameLength.Statement (.rSetoption a d x) :=
  Sys2Proof.Laws.FrameLength.of_some _ _ _ _ _ rfl

theorem Sys2Proof.Laws.FrameLength.rSetsingle (a d x : Sys2Proof.Byte) :
    Sys2Proof.Laws.FrameLength.Statement (.rSetsingle a d x) :=
  Sys2Proof.Laws.FrameLength.of_some _ _ _ _ _ rfl

theorem Sys2Proof.Laws.FrameLength.rDelsingle (a d x : Sys2Proof.Byte) :
    Sys2Proof.Laws.FrameLength.Statement (.rDelsingle a d x) :=
  Sys2Proof.Laws.FrameLength.of_some _ _ _ _ _ rfl

theorem Sys2Proof.Laws.FrameLength.rToggle (a d x : Sys2Proof.Byte) :
    Sys2Proof.Laws.FrameLength.Statement (.rToggle a d x) :=
  Sys2Proof.Laws.FrameLength.of_some _ _ _ _ _ rfl

theorem Sys2Proof.Laws.FrameLength.rsvdLow0909 (a d x : Sys2Proof.Byte) :
    Sys2Proof.Laws.FrameLength.Statement (.rsvdLow0909 a d x) :=
  Sys2Proof.Laws.FrameLength.of_some _ _ _ _ _ rfl

theorem Sys2Proof.Laws.FrameLength.rsvdLow0A0B (sub : BitVec 1) (a d x : Sys2Proof.Byte) :
    Sys2Proof.Laws.FrameLength.Statement (.rsvdLow0A0B sub a d x) :=
  Sys2Proof.Laws.FrameLength.of_some _ _ _ _ _ rfl

theorem Sys2Proof.Laws.FrameLength.rsvdLow0C0F (sub : BitVec 2) (a d x : Sys2Proof.Byte) :
    Sys2Proof.Laws.FrameLength.Statement (.rsvdLow0C0F sub a d x) :=
  Sys2Proof.Laws.FrameLength.of_some _ _ _ _ _ rfl

theorem Sys2Proof.Laws.FrameLength.rsvdMid101F (sub : BitVec 4) (a d x : Sys2Proof.Byte) :
    Sys2Proof.Laws.FrameLength.Statement (.rsvdMid101F sub a d x) :=
  Sys2Proof.Laws.FrameLength.of_some _ _ _ _ _ rfl

theorem Sys2Proof.Laws.FrameLength.rsvdMid203F (sub : BitVec 5) (a d x : Sys2Proof.Byte) :
    Sys2Proof.Laws.FrameLength.Statement (.rsvdMid203F sub a d x) :=
  Sys2Proof.Laws.FrameLength.of_some _ _ _ _ _ rfl

theorem Sys2Proof.Laws.FrameLength.rsvdMid407F (sub : BitVec 6) (a d x : Sys2Proof.Byte) :
    Sys2Proof.Laws.FrameLength.Statement (.rsvdMid407F sub a d x) :=
  Sys2Proof.Laws.FrameLength.of_some _ _ _ _ _ rfl

theorem Sys2Proof.Laws.FrameLength.rsvdMid80BF (sub : BitVec 6) (a d x : Sys2Proof.Byte) :
    Sys2Proof.Laws.FrameLength.Statement (.rsvdMid80BF sub a d x) :=
  Sys2Proof.Laws.FrameLength.of_some _ _ _ _ _ rfl

theorem Sys2Proof.Laws.FrameLength.rsvdMidC0DF (sub : BitVec 5) (a d x : Sys2Proof.Byte) :
    Sys2Proof.Laws.FrameLength.Statement (.rsvdMidC0DF sub a d x) :=
  Sys2Proof.Laws.FrameLength.of_some _ _ _ _ _ rfl

theorem Sys2Proof.Laws.FrameLength.rsvdMidE0EF (sub : BitVec 4) (a d x : Sys2Proof.Byte) :
    Sys2Proof.Laws.FrameLength.Statement (.rsvdMidE0EF sub a d x) :=
  Sys2Proof.Laws.FrameLength.of_some _ _ _ _ _ rfl

theorem Sys2Proof.Laws.FrameLength.rsvdHighF0F3 (sub : BitVec 2) (a d x : Sys2Proof.Byte) :
    Sys2Proof.Laws.FrameLength.Statement (.rsvdHighF0F3 sub a d x) :=
  Sys2Proof.Laws.FrameLength.of_some _ _ _ _ _ rfl

theorem Sys2Proof.Laws.FrameLength.rsvdHighF4F5 (sub : BitVec 1) (a d x : Sys2Proof.Byte) :
    Sys2Proof.Laws.FrameLength.Statement (.rsvdHighF4F5 sub a d x) :=
  Sys2Proof.Laws.FrameLength.of_some _ _ _ _ _ rfl

theorem Sys2Proof.Laws.FrameLength.rsvdHighF6F6 (a d x : Sys2Proof.Byte) :
    Sys2Proof.Laws.FrameLength.Statement (.rsvdHighF6F6 a d x) :=
  Sys2Proof.Laws.FrameLength.of_some _ _ _ _ _ rfl

theorem Sys2Proof.Laws.FrameLength.csum (c a d : Sys2Proof.Byte) :
    Sys2Proof.Laws.FrameLength.Statement (.csum c a d) :=
  Sys2Proof.Laws.FrameLength.of_none _ rfl

theorem Sys2Proof.Laws.FrameLength.encode (c a d : Int) :
    Sys2Proof.Laws.FrameLength.Statement (.encode c a d) :=
  Sys2Proof.Laws.FrameLength.of_none _ rfl

theorem Sys2Proof.Laws.FrameLength.decode (b0 b1 b2 b3 : Sys2Proof.Byte) :
    Sys2Proof.Laws.FrameLength.Statement (.decode b0 b1 b2 b3) :=
  Sys2Proof.Laws.FrameLength.of_none _ rfl

theorem Sys2Proof.Laws.FrameLength.isresp (c : Sys2Proof.Byte) :
    Sys2Proof.Laws.FrameLength.Statement (.isresp c) :=
  Sys2Proof.Laws.FrameLength.of_none _ rfl

theorem Sys2Proof.Laws.FrameLength.respcode (c : Sys2Proof.Byte) :
    Sys2Proof.Laws.FrameLength.Statement (.respcode c) :=
  Sys2Proof.Laws.FrameLength.of_none _ rfl

theorem Sys2Proof.Laws.FrameLength.reqcode (r : Sys2Proof.Byte) :
    Sys2Proof.Laws.FrameLength.Statement (.reqcode r) :=
  Sys2Proof.Laws.FrameLength.of_none _ rfl

theorem Sys2Proof.Laws.FrameLength.label (f : Sys2Proof.Frame) :
    Sys2Proof.Laws.FrameLength.Statement (.label f) :=
  Sys2Proof.Laws.FrameLength.of_none _ rfl

theorem Sys2Proof.Laws.FrameLength.pack (v : Sys2Proof.RelayVec) :
    Sys2Proof.Laws.FrameLength.Statement (.pack v) :=
  Sys2Proof.Laws.FrameLength.of_none _ rfl

theorem Sys2Proof.Laws.FrameLength.unpack (b : Int) :
    Sys2Proof.Laws.FrameLength.Statement (.unpack b) :=
  Sys2Proof.Laws.FrameLength.of_none _ rfl

theorem Sys2Proof.Laws.FrameLength.mask1 (index : Int) :
    Sys2Proof.Laws.FrameLength.Statement (.mask1 index) :=
  Sys2Proof.Laws.FrameLength.of_none _ rfl

theorem Sys2Proof.Laws.FrameLength.connect :
    Sys2Proof.Laws.FrameLength.Statement .connect :=
  Sys2Proof.Laws.FrameLength.of_none _ rfl

theorem Sys2Proof.Laws.FrameLength.communicate :
    Sys2Proof.Laws.FrameLength.Statement .communicate :=
  Sys2Proof.Laws.FrameLength.of_none _ rfl

theorem Sys2Proof.Laws.FrameLength.shutdown :
    Sys2Proof.Laws.FrameLength.Statement .shutdown :=
  Sys2Proof.Laws.FrameLength.of_none _ rfl

theorem Sys2Proof.Laws.FrameLength.setall (card : Int) (v : Sys2Proof.RelayVec) :
    Sys2Proof.Laws.FrameLength.Statement (.setall card v) :=
  Sys2Proof.Laws.FrameLength.of_none _ rfl

theorem Sys2Proof.Laws.FrameLength.query (card : Int) :
    Sys2Proof.Laws.FrameLength.Statement (.query card) :=
  Sys2Proof.Laws.FrameLength.of_none _ rfl

theorem Sys2Proof.Laws.FrameLength.enable (card index : Int) :
    Sys2Proof.Laws.FrameLength.Statement (.enable card index) :=
  Sys2Proof.Laws.FrameLength.of_none _ rfl

theorem Sys2Proof.Laws.FrameLength.disable (card index : Int) :
    Sys2Proof.Laws.FrameLength.Statement (.disable card index) :=
  Sys2Proof.Laws.FrameLength.of_none _ rfl

theorem Sys2Proof.Laws.FrameLength.pulse (card : Int) :
    Sys2Proof.Laws.FrameLength.Statement (.pulse card) :=
  Sys2Proof.Laws.FrameLength.of_none _ rfl

theorem Sys2Proof.Laws.FrameLength.submit (target : Sys2Proof.Byte) (settle : Int) :
    Sys2Proof.Laws.FrameLength.Statement (.submit target settle) :=
  Sys2Proof.Laws.FrameLength.of_none _ rfl

theorem Sys2Proof.Laws.FrameLength.batch (action : Sys2Proof.BatchAction) (targets : List Int) (duration : Option Int) :
    Sys2Proof.Laws.FrameLength.Statement (.batch action targets duration) :=
  Sys2Proof.Laws.FrameLength.of_none _ rfl

theorem Sys2Proof.Laws.FrameLength.startSw :
    Sys2Proof.Laws.FrameLength.Statement .startSw :=
  Sys2Proof.Laws.FrameLength.of_none _ rfl

theorem Sys2Proof.Laws.FrameLength.startDp :
    Sys2Proof.Laws.FrameLength.Statement .startDp :=
  Sys2Proof.Laws.FrameLength.of_none _ rfl

theorem Sys2Proof.Laws.FrameLength.swIter :
    Sys2Proof.Laws.FrameLength.Statement .swIter :=
  Sys2Proof.Laws.FrameLength.of_none _ rfl

theorem Sys2Proof.Laws.FrameLength.dpIter :
    Sys2Proof.Laws.FrameLength.Statement .dpIter :=
  Sys2Proof.Laws.FrameLength.of_none _ rfl
end

