-- ==== Sys2Proof/Laws/Steps.lean ====
section
/-! SUPPORT. What a step can do, said once: a predicate that every atomic part keeps is kept by every step. The
induction over runs of an owner and over the line's acts is packaged here. -/

namespace Sys2Proof.Machine

/-- Every part a step is made of keeps `P`. -/
structure KeptByParts (P : State → Prop) : Prop where
  ports : ∀ s hp cp fp rp, P s → P { s with hostPort := hp, codecPort := cp, fePort := fp, regPort := rp }
  inputs : ∀ s l ag, P s → P { s with lineIn := l, agenda := ag }
  own : ∀ s t, P s → ownerStep s = some t → P t
  arrive : ∀ b s, P s → P (rxArrive b s)
  timeout : ∀ s, P s → P (readTimeout s)
  start : ∀ r s, hostReady s → P s → P (startRequest r s)
  encode : ∀ q s, hostReady s → P s → P (writeTxf q s)
  opened : ∀ s, hostReady s → s.isOpen = false → P s → P (emit .opened (flushLine { s with isOpen := true }))
  closed : ∀ s, hostReady s → s.isOpen = true → P s → P (closeLine s)
  startSw : ∀ s, s.ss = .stopped → transportIdle s = true → P s → P { s with ss := .top }
  startDp : ∀ s, s.ds = .stopped → P s → P { s with ds := .top }
  switcher : ∀ s t, P s → swStep s = some t → P t
  swPoll : ∀ s, P s → P (swPoll s)
  display : ∀ s t, P s → dpStep s = some t → P t
  dpPoll : ∀ s, P s → P (dpPoll s)
  present : ∀ r s, heldFits s.params.delayW r → P s → P (fePresent r s)
  retry : ∀ s, P s → P (feRetry s)
  syncReqW : ∀ n s, P s → P { s with reqq := fifoSyncW n s.reqq }
  syncReqR : ∀ m s, P s → P { s with reqq := fifoSyncR s.params.qdepthReq m s.reqq }
  syncResW : ∀ n s, P s → P { s with resq := fifoSyncW n s.resq }
  syncResR : ∀ m s, P s → P { s with resq := fifoSyncR s.params.qdepthRes m s.resq }
  sampleSw : ∀ s, P s → P { s with intrSw := s.intr }
  sampleDp : ∀ s, P s → P { s with intrDp := s.intr }
  driveIntr : ∀ s l, P s → P { s with intr := l }
  driveLineOk : ∀ s l, P s → P { s with lineOpenOk := l }
  draw : ∀ s, P s → P { s with drawn := s.drawn + 1 }
  writeCsum : ∀ s v, s.xs = .idle → P s → P { s with csumVerify := v }
  writeMax : ∀ s v, s.xs = .idle → P s → P { s with maxDiscard := v }
  reset : ∀ s, P s → P (resetStep s)

/-- A step whose next entry is an agent's step is that step, on the state without the entry. -/
@[simp] theorem step_offer_agent (a : AgentStep) (s : State) : Machine.step (offer (.agent a) s) = agentStep a s := rfl

/-- A step whose next entry is an operation asked by name runs it, on the state without the entry. -/
@[simp] theorem step_offer_op (i : Instr) (s : State) : Machine.step (offer (.op i) s) = Machine.exec i s := rfl

/-- An answer a predicate is kept by: a next state has it. -/
def answers (P : State → Prop) (o : Host.Outcome State Fault Refusal) : Prop := ∀ t, o = .next t → P t

theorem answers_next {P : State → Prop} {s : State} (h : P s) : answers P (.next s) := by
  intro t ht; cases ht; exact h

theorem answers_refused {P : State → Prop} {r : Refusal} : answers P (.refused r) := by
  intro t ht; cases ht

section
variable {P : State → Prop} (k : KeptByParts P)
include k

theorem KeptByParts.hostPort (s : State) (p : PortState) (h : P s) : P { s with hostPort := p } :=
  k.ports s p s.codecPort s.fePort s.regPort h

theorem KeptByParts.codecPort (s : State) (p : PortState) (h : P s) : P { s with codecPort := p } :=
  k.ports s s.hostPort p s.fePort s.regPort h

theorem KeptByParts.fePort (s : State) (p : PortState) (h : P s) : P { s with fePort := p } :=
  k.ports s s.hostPort s.codecPort p s.regPort h

theorem KeptByParts.regPort (s : State) (p : PortState) (h : P s) : P { s with regPort := p } :=
  k.ports s s.hostPort s.codecPort s.fePort p h

theorem KeptByParts.drive (acts : List LineAct) (s : State) (h : P s) : P (Machine.drive acts s) :=
  drive_keeps k.own
    (fun a s hs => by cases a with
      | arrive b => exact k.arrive b s hs
      | silence => exact k.timeout s hs)
    (fun s l hs => k.inputs s l s.agenda hs) acts s h

theorem KeptByParts.advance (s : State) (h : P s) : P (Machine.advance s) := runOwner_keeps k.own _ _ h

theorem KeptByParts.issue (r : ClientRequest) (s : State) (h : P s) : answers P (issueRequest r s) := by
  intro t ht
  obtain ⟨hh, hi, -, rfl⟩ := issueRequest_next ht
  exact k.start r s ⟨hh, hi⟩ h

theorem KeptByParts.request (r : ClientRequest) (s : State) (h : P s) : answers P (runRequest r s) := by
  intro t ht
  obtain ⟨u, hu, rfl⟩ := runRequest_next ht
  exact k.drive _ _ (k.issue r s h u hu)

theorem KeptByParts.requestFrame (c a d : Byte) (s : State) (h : P s) : answers P (Machine.requestFrame c a d s) := by
  unfold Machine.requestFrame
  split
  · exact answers_refused
  · split
    · exact answers_refused
    · rename_i hh hi
      exact k.request _ _ (k.encode _ s ⟨by simpa using hh, by simpa using hi⟩ h)

theorem KeptByParts.deliver (b0 b1 b2 b3 : Byte) (s : State) (h : P s) : answers P (deliverFrame b0 b1 b2 b3 s) := by
  have arrived := k.arrive b3 _ (k.arrive b2 _ (k.arrive b1 _ (k.arrive b0 s h)))
  unfold deliverFrame
  refine answers_next ?_
  split
  · exact k.advance _ arrived
  · exact arrived

theorem KeptByParts.result (v : PortValue) (s : State) (h : P s) : answers P (Machine.result v s) :=
  answers_next (k.codecPort s _ h)

theorem KeptByParts.failure (e : Error) (s : State) (h : P s) : answers P (Machine.failure e s) :=
  answers_next (k.codecPort s _ h)

theorem KeptByParts.answer (v : PortValue) (s : State) (h : P s) : answers P (Machine.answer v s) :=
  answers_next (k.hostPort s _ h)

theorem KeptByParts.reject (e : Error) (s : State) (h : P s) : answers P (Machine.reject e s) :=
  answers_next (k.hostPort s _ h)

/-- An iteration of SWITCHER is made of its steps, its poll timeout and its exchange. -/
theorem KeptByParts.swIteration (s : State) (h : P s) : P (Machine.swIteration s) := by
  unfold Machine.swIteration
  have top : ∀ u, P u → P (swPhase .top swTop u) := by
    intro u hu; unfold swPhase; split
    · rename_i hs; exact k.switcher u _ hu (by simp [swStep, hs])
    · exact hu
  have wait : ∀ u, P u → P (swPhase .wait (fun t => (swPop t).getD (Machine.swPoll t)) u) := by
    intro u hu; unfold swPhase; split
    · rename_i hs
      dsimp only
      cases hp : swPop u with
      | none => simpa using k.swPoll u hu
      | some t => simpa using k.switcher u t hu (by simp [swStep, hs, hp])
    · exact hu
  have exch : ∀ u, P u → P (swPhase .exch swExchange u) := by
    intro u hu; unfold swPhase; split
    · rename_i hs
      unfold swExchange driveOp
      refine k.drive _ _ ?_
      split
      · rename_i hn; exact k.switcher u _ hu (by simp [swStep, hs, hn])
      · exact hu
    · exact hu
  have push : ∀ u, P u → P (swPhase .push (fun t => (swPush t).getD t) u) := by
    intro u hu; unfold swPhase; split
    · rename_i hs
      dsimp only
      cases hp : swPush u with
      | none => simpa using hu
      | some t => simpa using k.switcher u t hu (by simp [swStep, hs, hp])
    · exact hu
  have settle : ∀ u, P u → P (swPhase .settle swSettle u) := by
    intro u hu; unfold swPhase; split
    · rename_i hs; exact k.switcher u _ hu (by simp [swStep, hs])
    · exact hu
  exact settle _ (push _ (exch _ (wait _ (top _ h))))

/-- An iteration of DISPLAY is made of its steps and its poll timeout. -/
theorem KeptByParts.dpIteration (s : State) (h : P s) : P (Machine.dpIteration s) := by
  unfold Machine.dpIteration
  have top : ∀ u, P u → P (dpPhase .top dpTop u) := by
    intro u hu; unfold dpPhase; split
    · rename_i hs; exact k.display u _ hu (by simp [dpStep, hs])
    · exact hu
  have wait : ∀ u, P u → P (dpPhase .wait (fun t => (dpDeliver t).getD (Machine.dpPoll t)) u) := by
    intro u hu; unfold dpPhase; split
    · rename_i hs
      dsimp only
      cases hp : dpDeliver u with
      | none => simpa using k.dpPoll u hu
      | some t => simpa using k.display u t hu (by simp [dpStep, hs, hp])
    · exact hu
  exact wait _ (top _ h)

/-- Every instruction's meaning keeps what its parts keep. -/
theorem KeptByParts.exec (i : Instr) (s : State) (h : P s) : answers P (Machine.exec i s) := by
  cases i with
  | noop a d x => exact k.requestFrame _ _ _ _ h
  | setup a d x => exact k.requestFrame _ _ _ _ h
  | getport a d x => exact k.requestFrame _ _ _ _ h
  | setport a d x => exact k.requestFrame _ _ _ _ h
  | getoption a d x => exact k.requestFrame _ _ _ _ h
  | setoption a d x => exact k.requestFrame _ _ _ _ h
  | setsingle a d x => exact k.requestFrame _ _ _ _ h
  | delsingle a d x => exact k.requestFrame _ _ _ _ h
  | toggle a d x => exact k.requestFrame _ _ _ _ h
  | rNoop a d x => exact k.deliver _ _ _ _ _ h
  | rSetup a d x => exact k.deliver _ _ _ _ _ h
  | rGetport a d x => exact k.deliver _ _ _ _ _ h
  | rSetport a d x => exact k.deliver _ _ _ _ _ h
  | rGetoption a d x => exact k.deliver _ _ _ _ _ h
  | rSetoption a d x => exact k.deliver _ _ _ _ _ h
  | rSetsingle a d x => exact k.deliver _ _ _ _ _ h
  | rDelsingle a d x => exact k.deliver _ _ _ _ _ h
  | rToggle a d x => exact k.deliver _ _ _ _ _ h
  | rsvdLow0909 a d x => exact k.deliver _ _ _ _ _ h
  | rsvdLow0A0B sub a d x => exact k.deliver _ _ _ _ _ h
  | rsvdLow0C0F sub a d x => exact k.deliver _ _ _ _ _ h
  | rsvdMid101F sub a d x => exact k.deliver _ _ _ _ _ h
  | rsvdMid203F sub a d x => exact k.deliver _ _ _ _ _ h
  | rsvdMid407F sub a d x => exact k.deliver _ _ _ _ _ h
  | rsvdMid80BF sub a d x => exact k.deliver _ _ _ _ _ h
  | rsvdMidC0DF sub a d x => exact k.deliver _ _ _ _ _ h
  | rsvdMidE0EF sub a d x => exact k.deliver _ _ _ _ _ h
  | rsvdHighF0F3 sub a d x => exact k.deliver _ _ _ _ _ h
  | rsvdHighF4F5 sub a d x => exact k.deliver _ _ _ _ _ h
  | rsvdHighF6F6 a d x => exact k.deliver _ _ _ _ _ h
  | csum c a d => exact k.result _ _ h
  | encode c a d =>
    show answers P (execEncode c a d s)
    unfold execEncode
    split
    · exact answers_refused
    · split
      · exact answers_refused
      · rename_i hh hi
        split
        · exact k.failure _ _ h
        · exact k.result _ _ (k.encode _ s ⟨by simpa using hh, by simpa using hi⟩ h)
  | decode b0 b1 b2 b3 => exact k.result _ _ h
  | isresp c => exact k.result _ _ h
  | respcode c => exact k.result _ _ h
  | reqcode r => exact k.result _ _ h
  | label f =>
    show answers P (execLabel f s)
    unfold execLabel
    split
    · exact k.result _ _ h
    · exact k.failure _ _ h
  | pack v => exact k.result _ _ h
  | unpack b =>
    show answers P (execUnpack b s)
    unfold execUnpack
    split
    · exact k.result _ _ h
    · exact k.failure _ _ h
  | mask1 index =>
    show answers P (execMask1 index s)
    unfold execMask1
    split
    · exact k.result _ _ h
    · exact k.failure _ _ h
  | connect =>
    show answers P (execConnect s)
    unfold execConnect
    split
    · exact answers_refused
    · split
      · exact answers_refused
      · split
        · exact answers_refused
        · rename_i hh hi ho
          split
          · exact k.answer _ _ (k.opened s ⟨by simpa using hh, by simpa using hi⟩ (by simpa using ho) h)
          · exact k.reject _ _ h
  | communicate => exact k.request _ _ h
  | shutdown =>
    show answers P (execShutdown s)
    unfold execShutdown
    split
    · exact answers_refused
    · split
      · exact answers_refused
      · rename_i hh hi
        refine k.answer _ _ ?_
        split
        · rename_i ho; exact k.closed s ⟨by simpa using hh, by simpa using hi⟩ ho h
        · exact h
  | setall card v => exact k.request _ _ h
  | query card => exact k.request _ _ h
  | enable card index => exact k.request _ _ h
  | disable card index => exact k.request _ _ h
  | pulse card => exact k.request _ _ h
  | submit target settle =>
    show answers P (execSubmit target settle s)
    unfold execSubmit
    split
    · exact answers_refused
    · rename_i hf
      refine answers_next (k.present _ s ?_ h)
      simp only [delayFits, Bool.not_eq_true', Bool.not_eq_false, Bool.and_eq_true, decide_eq_true_eq] at hf
      show settle.toNat < 2 ^ s.params.delayW
      have h2 := hf.2
      have : (settle.toNat : Int) = settle := Int.toNat_of_nonneg hf.1
      exact_mod_cast this ▸ h2
  | batch action targets duration =>
    show answers P (execBatch action targets duration s)
    unfold execBatch
    split
    · exact answers_refused
    · split
      · exact answers_refused
      · rename_i hf
        split
        · exact answers_next (k.fePort s _ h)
        · refine answers_next (k.present _ s ?_ h)
          show durationMs duration < 2 ^ s.params.delayW
          cases duration with
          | none => exact Nat.two_pow_pos _
          | some ms =>
            simp only [durationFits, delayFits, Bool.not_eq_true', Bool.not_eq_false, Bool.and_eq_true,
              decide_eq_true_eq] at hf
            have h2 := hf.2
            have : (ms.toNat : Int) = ms := Int.toNat_of_nonneg hf.1
            show ms.toNat < _
            exact_mod_cast this ▸ h2
  | startSw =>
    show answers P (execStartSw s)
    unfold execStartSw
    split
    · exact answers_refused
    · split
      · exact answers_refused
      · rename_i hs hi
        exact k.answer _ _ (k.startSw s (by simpa using hs) (by simpa using hi) h)
  | startDp =>
    show answers P (execStartDp s)
    unfold execStartDp
    split
    · exact answers_refused
    · rename_i hs
      exact k.answer _ _ (k.startDp s (by simpa using hs) h)
  | swIter => exact answers_next (k.swIteration s h)
  | dpIter => exact answers_next (k.dpIteration s h)

/-- Every atomic step of an agent keeps what its parts keep. -/
theorem KeptByParts.agent (a : AgentStep) (s : State) (h : P s) : answers P (agentStep a s) := by
  cases a with
  | issue r => exact k.issue r s h
  | own =>
    refine answers_next ?_
    unfold ownStep
    split
    · exact h
    · cases ho : ownerStep s with
      | none => exact h
      | some t => exact k.own s t h ho
  | switcher =>
    refine answers_next ?_
    cases ho : swStep s with
    | none => exact h
    | some t => exact k.switcher s t h ho
  | display =>
    refine answers_next ?_
    cases ho : dpStep s with
    | none => exact h
    | some t => exact k.display s t h ho
  | frontEnd => exact answers_next (k.retry s h)
  | arrive b => exact answers_next (k.arrive b s h)
  | readTimeout => exact answers_next (k.timeout s h)
  | pollSw => exact answers_next (k.swPoll s h)
  | pollDp => exact answers_next (k.dpPoll s h)
  | syncReqW n => exact answers_next (k.syncReqW n s h)
  | syncReqR m => exact answers_next (k.syncReqR m s h)
  | syncResW n => exact answers_next (k.syncResW n s h)
  | syncResR m => exact answers_next (k.syncResR m s h)
  | sampleIntr w => cases w with
    | sw => exact answers_next (k.sampleSw s h)
    | dp => exact answers_next (k.sampleDp s h)
  | driveIntr l => exact answers_next (k.driveIntr s l h)
  | driveLineOk l => exact answers_next (k.driveLineOk s l h)
  | writeCsumVerify v =>
    intro t ht
    obtain ⟨-, hx, rfl⟩ := writeControl_next (f := fun u => { u with csumVerify := v }) ht
    exact k.regPort _ _ (k.writeCsum s v hx h)
  | writeMaxDiscard v =>
    intro t ht
    obtain ⟨-, hx, rfl⟩ := writeControl_next (f := fun u => { u with maxDiscard := v }) ht
    exact k.regPort _ _ (k.writeMax s v hx h)
  | readReg r =>
    intro t ht
    obtain ⟨-, -, rfl⟩ := readControl_next (r := r) ht
    refine k.regPort _ _ ?_
    rcases afterRead_cases r s with ⟨-, e⟩ | ⟨-, e⟩ <;> rw [e]
    · exact k.draw s h
    · exact h
  | reset => exact answers_next (k.reset s h)

/-- What every part of a step keeps, every step keeps. -/
theorem KeptByParts.step (s t : State) (h : P s) (ht : Machine.step s = .next t) : P t := by
  have inp : ∀ ag, P { s with agenda := ag } := fun ag => k.inputs s s.lineIn ag h
  unfold Machine.step fetch at ht
  split at ht
  · cases ht; exact h
  all_goals
    rename_i hf
    split at hf
    · cases hf
    · first
      | (cases hf; exact k.exec _ _ (inp _) t ht)
      | cases hf
    · first
      | (cases hf; exact k.agent _ _ (inp _) t ht)
      | cases hf
    · split at hf
      · first
        | (cases hf; exact k.exec _ _ (inp _) t ht)
        | cases hf
      · first
        | (cases hf; unfold decodeStop at ht; split at ht <;> cases ht)
        | cases hf

end

end Sys2Proof.Machine
end

