-- ==== Sys2Proof/Tests/Slice0.lean ====
section
/-! SUPPORT. Tests: ill-formed terms are refused, words written from 30_encoding.md decode to their instructions,
single steps give the values of spec/95_test_vectors.md, and every statement with hypotheses has a witness of them. -/

namespace Sys2Proof.Tests

open Sys2Proof.Machine

/-! ## Helpers -/

/-- The outcome is a next state of which `p` holds. -/
def nextIs (o : Host.Outcome State Fault Refusal) (p : State → Bool) : Bool :=
  match o with
  | .next t => p t
  | .fault _ => false
  | .refused _ => false

/-- The outcome is the refusal `r`. -/
def refusedAs (o : Host.Outcome State Fault Refusal) (r : Refusal) : Bool :=
  match o with
  | .next _ => false
  | .fault _ => false
  | .refused q => q == r

/-- The transport is open and HOST holds it. -/
def opened : State := { State.reset with isOpen := true }

/-- As `opened`, and the line does `acts` next. -/
def line (acts : List LineAct) : State := { opened with lineIn := acts }

/-- The line answers with the four bytes of `c` and then falls silent. -/
def answering (c : Quad) : State := line (quadActs c ++ [.silence])

/-- RXF is `[0xAA, ..]`, left by an earlier exchange (95_test_vectors.md P3). -/
def stale (s : State) : State := writeRxf ⟨0xAA, 0xAA, 0xAA, 0xAA⟩ s

/-- Relay vectors from their packed bytes. -/
def vec (b : Byte) : RelayVec := unpack b

/-- An error by cause and info. -/
def err (c : Cause) (n : Info) : PortState := .err { cause := c, info := n }

/-! ## WellFormed refuses ill-formed terms -/

/-- The checksum of a request frame (R95): E8's frame with another fourth byte. -/
theorem test_wf_request_checksum :
    (Instr.setport 0 1 2).wellFormed = true ∧ (Instr.setport 0 1 3).wellFormed = false
    ∧ (Instr.noop 0 0 1).wellFormed = false ∧ (Instr.toggle 0 0xFF 0xF6).wellFormed = false := by decide

/-- The operand of RESPCODE is 0 to 8 (R125). -/
theorem test_wf_respcode : (Instr.respcode 8).wellFormed = true ∧ (Instr.respcode 9).wellFormed = false := by decide

/-- The operand of REQCODE is a response byte (R126). -/
theorem test_wf_reqcode : (Instr.reqcode 16).wellFormed = true ∧ (Instr.reqcode 15).wellFormed = false := by decide

/-- A settle delay is not negative (R32). -/
theorem test_wf_submit : (Instr.submit 1 0).wellFormed = true ∧ (Instr.submit 1 (-1)).wellFormed = false := by decide

/-- A duration is not negative (R32). -/
theorem test_wf_batch :
    (Instr.batch .pulse [1] none).wellFormed = true ∧ (Instr.batch .pulse [1] (some (-1))).wellFormed = false := by
  decide

/-! ## Words written out from the encodings decode to their instructions -/

/-- Request words: command byte 0 to 8, then address, data, checksum (R95; frames of 95_test_vectors.md 2.1). -/
theorem test_decode_requests :
    decodeTableWord 32 0x00000000 = some (.noop 0x00 0x00 0x00)
    ∧ decodeTableWord 32 0x01010000 = some (.setup 0x01 0x00 0x00)
    ∧ decodeTableWord 32 0x02010003 = some (.getport 0x01 0x00 0x03)
    ∧ decodeTableWord 32 0x03000102 = some (.setport 0x00 0x01 0x02)
    ∧ decodeTableWord 32 0x04000004 = some (.getoption 0x00 0x00 0x04)
    ∧ decodeTableWord 32 0x05000104 = some (.setoption 0x00 0x01 0x04)
    ∧ decodeTableWord 32 0x0600080E = some (.setsingle 0x00 0x08 0x0E)
    ∧ decodeTableWord 32 0x0700080F = some (.delsingle 0x00 0x08 0x0F)
    ∧ decodeTableWord 32 0x0800FFF7 = some (.toggle 0x00 0xFF 0xF7) := by decide

/-- Response words: command byte `255 - c` (R96). -/
theorem test_decode_responses :
    decodeTableWord 32 0xFF0000FF = some (.rNoop 0x00 0x00 0xFF)
    ∧ decodeTableWord 32 0xFE0100FF = some (.rSetup 0x01 0x00 0xFF)
    ∧ decodeTableWord 32 0xFD0005F8 = some (.rGetport 0x00 0x05 0xF8)
    ∧ decodeTableWord 32 0xFC0001FD = some (.rSetport 0x00 0x01 0xFD)
    ∧ decodeTableWord 32 0xFB1020CB = some (.rGetoption 0x10 0x20 0xCB)
    ∧ decodeTableWord 32 0xFA0001FB = some (.rSetoption 0x00 0x01 0xFB)
    ∧ decodeTableWord 32 0xF90008F1 = some (.rSetsingle 0x00 0x08 0xF1)
    ∧ decodeTableWord 32 0xF80000F8 = some (.rDelsingle 0x00 0x00 0xF8)
    ∧ decodeTableWord 32 0xF70000F7 = some (.rToggle 0x00 0x00 0xF7) := by decide

/-- Words of the reserved ranges at their ends (R91): the bits that the row leaves open are the operand `sub`. -/
theorem test_decode_reserved :
    decodeTableWord 32 0x09010203 = some (.rsvdLow0909 0x01 0x02 0x03)
    ∧ decodeTableWord 32 0x0B010203 = some (.rsvdLow0A0B 1 0x01 0x02 0x03)
    ∧ decodeTableWord 32 0x0E010203 = some (.rsvdLow0C0F 2 0x01 0x02 0x03)
    ∧ decodeTableWord 32 0x10010203 = some (.rsvdMid101F 0 0x01 0x02 0x03)
    ∧ decodeTableWord 32 0x3F010203 = some (.rsvdMid203F 31 0x01 0x02 0x03)
    ∧ decodeTableWord 32 0x41010203 = some (.rsvdMid407F 1 0x01 0x02 0x03)
    ∧ decodeTableWord 32 0xBF010203 = some (.rsvdMid80BF 63 0x01 0x02 0x03)
    ∧ decodeTableWord 32 0xC0010203 = some (.rsvdMidC0DF 0 0x01 0x02 0x03)
    ∧ decodeTableWord 32 0xEF0000EF = some (.rsvdMidE0EF 15 0x00 0x00 0xEF)
    ∧ decodeTableWord 32 0xF0000000 = some (.rsvdHighF0F3 0 0x00 0x00 0x00)
    ∧ decodeTableWord 32 0xF5010203 = some (.rsvdHighF4F5 1 0x01 0x02 0x03)
    ∧ decodeTableWord 32 0xF6010203 = some (.rsvdHighF6F6 0x01 0x02 0x03) := by decide

/-- A port operation has no word (R112), and three bytes are never decoded (R103). -/
theorem test_decode_none : decodeTableWord 0 0 = none ∧ decode [0x03, 0x00, 0x01] = .error (.length 3) := by decide

/-- The step fetches and runs exactly the word that was placed (E8's request, unsent because the transport is closed). -/
theorem test_fetch_word :
    nextIs (step (State.reset.withFetchWord 32 0x03000102))
      (fun t => t.txf == ⟨0x03, 0x00, 0x01, 0x02⟩ && t.hostPort == err .connClosed 0 && t.agenda == []) = true := by
  decide

/-! ## Frames -/

/-- What a request frame leaves: the frame in TXF and on the line, and the response's frame as the completion. -/
def sends (i : Instr) (q c : Quad) : Bool :=
  nextIs (exec i (answering c)) (fun t =>
    t.txf == q && t.hostPort == .ok (.frame (decodeQuad c)) && t.ev == exchangeEvents Params.defaults q c)

/-- The nine request frames with bytes of 95_test_vectors.md 2.1; a wrong checksum operand is recomputed (log 5). -/
theorem test_request_frames :
    sends (.noop 0 0 0) ⟨0, 0, 0, 0⟩ ⟨0xFF, 0, 0, 0xFF⟩ = true
    ∧ sends (.setup 1 0 0) ⟨1, 1, 0, 0⟩ ⟨0xFE, 1, 0, 0xFF⟩ = true
    ∧ sends (.getport 1 0 3) ⟨2, 1, 0, 3⟩ ⟨0xFD, 1, 1, 0xFD⟩ = true
    ∧ sends (.setport 0 0xFF 0) ⟨3, 0, 0xFF, 0xFC⟩ ⟨0xFC, 0, 0xFF, 3⟩ = true
    ∧ sends (.getoption 0 0 4) ⟨4, 0, 0, 4⟩ ⟨0xFB, 0, 0, 0xFB⟩ = true
    ∧ sends (.setoption 0 1 4) ⟨5, 0, 1, 4⟩ ⟨0xFA, 0, 1, 0xFB⟩ = true
    ∧ sends (.setsingle 0 0x80 0x86) ⟨6, 0, 0x80, 0x86⟩ ⟨0xF9, 0, 0x88, 0x71⟩ = true
    ∧ sends (.delsingle 0 8 0x0F) ⟨7, 0, 8, 0x0F⟩ ⟨0xF8, 0, 0, 0xF8⟩ = true
    ∧ sends (.toggle 0 0xFF 0xF7) ⟨8, 0, 0xFF, 0xF7⟩ ⟨0xF7, 0, 0, 0xF7⟩ = true := by decide

/-- An exchange of raw COMMUNICATE that waits for its first byte. -/
def reading : State := { writeTxf ⟨3, 0, 1, 2⟩ opened with xs := .read, cop := .raw, hostPort := .busy }

/-- The frame ends the exchange as the accepted response. -/
def accepts (i : Instr) (q : Quad) : Bool :=
  nextIs (exec i reading) (fun t =>
    t.rxf == q && t.xs == .idle && t.hostPort == .ok (.frame (decodeQuad q)) && t.disc == 0)

/-- The frame is discarded whole and the exchange reads on. -/
def discards (i : Instr) (bs : List Byte) : Bool :=
  nextIs (exec i reading) (fun t =>
    t.rxf == reading.rxf && t.xs == .read && t.cn == 0 && t.disc == 1 && t.ev.getLast? == some (.discard bs))

/-- Response frames and RSVD_HIGH frames are candidates (R178, R101). -/
theorem test_candidates_accepted :
    accepts (.rNoop 0 0 0xFF) ⟨0xFF, 0, 0, 0xFF⟩ = true
    ∧ accepts (.rSetup 1 0 0xFF) ⟨0xFE, 1, 0, 0xFF⟩ = true
    ∧ accepts (.rGetport 0 5 0xF8) ⟨0xFD, 0, 5, 0xF8⟩ = true
    ∧ accepts (.rSetport 0 1 0) ⟨0xFC, 0, 1, 0⟩ = true
    ∧ accepts (.rGetoption 0 0 1) ⟨0xFB, 0, 0, 1⟩ = true
    ∧ accepts (.rSetoption 0 0 2) ⟨0xFA, 0, 0, 2⟩ = true
    ∧ accepts (.rSetsingle 0 8 0xF1) ⟨0xF9, 0, 8, 0xF1⟩ = true
    ∧ accepts (.rDelsingle 0 0 0xF8) ⟨0xF8, 0, 0, 0xF8⟩ = true
    ∧ accepts (.rToggle 0 0 3) ⟨0xF7, 0, 0, 3⟩ = true
    ∧ accepts (.rsvdHighF0F3 0 0 0 0) ⟨0xF0, 0, 0, 0⟩ = true
    ∧ accepts (.rsvdHighF4F5 1 0 0 4) ⟨0xF5, 0, 0, 4⟩ = true
    ∧ accepts (.rsvdHighF6F6 0 0 5) ⟨0xF6, 0, 0, 5⟩ = true := by decide

/-- RSVD_LOW and RSVD_MID frames are discarded, bytes of at least 0xF0 inside them unseen (R101, R178). -/
theorem test_garbage_discarded :
    discards (.rsvdLow0909 0 0 1) [0x09, 0, 0, 1] = true
    ∧ discards (.rsvdLow0A0B 1 0xF7 0xFF 0xFF) [0x0B, 0xF7, 0xFF, 0xFF] = true
    ∧ discards (.rsvdLow0C0F 3 0 0 1) [0x0F, 0, 0, 1] = true
    ∧ discards (.rsvdMid101F 0 0xFC 0 1) [0x10, 0xFC, 0, 1] = true
    ∧ discards (.rsvdMid203F 0 0 0 1) [0x20, 0, 0, 1] = true
    ∧ discards (.rsvdMid407F 1 0x42 0 1) [0x41, 0x42, 0, 1] = true
    ∧ discards (.rsvdMid80BF 63 0 0 1) [0xBF, 0, 0, 1] = true
    ∧ discards (.rsvdMidC0DF 31 0 0 1) [0xDF, 0, 0, 1] = true
    ∧ discards (.rsvdMidE0EF 15 0 0 0xEF) [0xEF, 0, 0, 0xEF] = true := by decide

/-! ## Codec and relay vectors -/

/-- The codec port's result of an operation on the state after reset. -/
def gives (i : Instr) (r : PortState) : Bool := nextIs (exec i State.reset) (fun t => t.codecPort == r)

/-- ENCODE (95_test_vectors.md 2.1): three results and the three range errors. -/
theorem test_encode :
    nextIs (exec (.encode 3 0 255) State.reset) (fun t =>
      t.txf == ⟨0x03, 0x00, 0xFF, 0xFC⟩ && t.codecPort == .ok (.bytes ⟨0x03, 0x00, 0xFF, 0xFC⟩)) = true
    ∧ gives (.encode 0xFC 0 1) (.ok (.bytes ⟨0xFC, 0x00, 0x01, 0xFD⟩)) = true
    ∧ gives (.encode 256 0 0) (err .rangeByte 0) = true ∧ gives (.encode 3 (-1) 0) (err .rangeByte 1) = true
    ∧ nextIs (exec (.encode 3 0 256) (stale State.reset)) (fun t =>
        t.codecPort == err .rangeByte 2 && t.txf == State.reset.txf) = true := by decide

/-- CSUM (E8, and `CSUM(x, a, a) = x`) and DECODE (the fourth byte is not compared). -/
theorem test_csum_decode :
    gives (.csum 3 0 1) (.ok (.byte 2)) = true ∧ gives (.csum 3 0xFF 0xFF) (.ok (.byte 3)) = true
    ∧ gives (.decode 0xFC 0 1 0xFD) (.ok (.frame ⟨0xFC, 0, 1⟩)) = true
    ∧ gives (.decode 0xFC 0 1 0x00) (.ok (.frame ⟨0xFC, 0, 1⟩)) = true := by decide

/-- ISRESP at its boundaries, RESPCODE and REQCODE (95_test_vectors.md 2.1). -/
theorem test_response_predicates :
    gives (.isresp 0x0F) (.ok (.bool false)) = true ∧ gives (.isresp 0x10) (.ok (.bool true)) = true
    ∧ gives (.respcode 3) (.ok (.byte 0xFC)) = true ∧ gives (.respcode 8) (.ok (.byte 0xF7)) = true
    ∧ gives (.reqcode 0xFD) (.ok (.byte 2)) = true ∧ gives (.reqcode 0x10) (.ok (.byte 239)) = true := by decide

/-- LABEL at its boundaries (95_test_vectors.md 2.1). -/
theorem test_label :
    gives (.label ⟨0x08, 0, 0⟩) (.ok (.label .toggle)) = true ∧ gives (.label ⟨0xF7, 0, 0⟩) (.ok (.label .toggle)) = true
    ∧ gives (.label ⟨0x09, 0, 0⟩) (err .label 9) = true ∧ gives (.label ⟨0x10, 0, 0⟩) (err .label 239) = true
    ∧ gives (.label ⟨0xF6, 0, 0⟩) (err .label 9) = true ∧ labelText .setport = "SETPORT" := by decide

/-- PACK and UNPACK (95_test_vectors.md 2.2). -/
theorem test_pack_unpack :
    gives (.pack #v[true, true, false, false, true, false, false, false]) (.ok (.byte 0x13)) = true
    ∧ gives (.pack #v[false, false, true, false, false, true, false, true]) (.ok (.byte 0xA4)) = true
    ∧ gives (.unpack 0xE1) (.ok (.vec #v[true, false, false, false, false, true, true, true])) = true
    ∧ gives (.unpack 256) (err .rangeByte 2) = true ∧ gives (.unpack (-1)) (err .rangeByte 2) = true := by decide

/-- MASK1 (95_test_vectors.md 2.2). -/
theorem test_mask1 :
    gives (.mask1 3) (.ok (.vec #v[false, false, false, true, false, false, false, false])) = true
    ∧ gives (.mask1 8) (err .rangeIndex 8) = true ∧ gives (.mask1 255) (err .rangeIndex 255) = true := by decide

/-! ## Transport and client operations -/

/-- CONNECT from reset, line opening and not opening (95_test_vectors.md 2.3). -/
theorem test_connect :
    nextIs (exec .connect { State.reset with lineOpenOk := true }) (fun t =>
      t.isOpen && t.ev == [.flush, .opened] && t.hostPort == .ok .unit) = true
    ∧ nextIs (exec .connect State.reset) (fun t =>
      !t.isOpen && t.ev == [] && t.hostPort == err .connOpen 0) = true
    ∧ refusedAs (exec .connect opened) .alreadyOpen = true := by decide

/-- SHUTDOWN from reset changes nothing, and closes an open transport (95_test_vectors.md 2.3). -/
theorem test_shutdown :
    nextIs (exec .shutdown State.reset) (fun t => t == { State.reset with hostPort := .ok .unit }) = true
    ∧ nextIs (exec .shutdown { opened with rxb := [0x55] }) (fun t =>
      !t.isOpen && t.rxb == [] && t.ev == [.closed]) = true := by decide

/-- COMMUNICATE sends what is in TXF; it is refused when the command byte is above 8 (R100); from reset the transport is
closed and it ends with E_CONN_CLOSED, changing nothing (R171, R172). -/
theorem test_communicate :
    nextIs (exec .communicate (writeTxf ⟨3, 0, 1, 2⟩ (answering ⟨0xFC, 0, 1, 0xFD⟩))) (fun t =>
      t.rxf == ⟨0xFC, 0, 1, 0xFD⟩ && t.hostPort == .ok (.frame ⟨0xFC, 0, 1⟩) && t.lineIn == [.silence]) = true
    ∧ nextIs (exec .communicate State.reset) (fun t =>
      t == { State.reset with hostPort := err .connClosed 0 }) = true
    ∧ refusedAs (exec .communicate (writeTxf ⟨9, 0, 1, 8⟩ opened)) .requestCode = true := by decide

/-- On an open transport COMMUNICATE with a TXF that nothing has written starts the exchange of the free value, which
TXF then holds (R189, log 7), or is refused when that value is no request (R100). -/
theorem test_communicate_unwritten :
    agentStep (.issue .communicate) opened =
      if (anyQuad 0).b0.toNat ≤ 8 then
        .next { opened with
          txf := anyQuad 0, txfWritten := true, drawn := 1, xs := .flush, cop := .raw, hostPort := .busy }
      else .refused .requestCode := by
  have hc : requestCodeOk .communicate opened = decide ((anyQuad 0).b0.toNat ≤ 8) := rfl
  rw [show agentStep (.issue .communicate) opened
    = if !requestCodeOk .communicate opened then .refused .requestCode else .next (startRaw opened) from rfl, hc]
  split <;> rename_i h <;> simp at h
  · rw [if_neg (by omega)]
  · rw [if_pos h]; rfl

/-- The frame sent and the completion of a client operation whose request the line answers with `c`. -/
def client (i : Instr) (c q : Quad) (r : PortState) : Bool :=
  nextIs (exec i (answering c)) (fun t => t.txf == q && t.hostPort == r && t.rxf == c)

/-- SETALL returns the board's echo, and checks the command byte only (95_test_vectors.md 2.4). -/
theorem test_setall :
    client (.setall 0 (vec 3)) ⟨0xFC, 0, 2, 0xFE⟩ ⟨3, 0, 3, 0⟩ (.ok (.vec (vec 2))) = true
    ∧ client (.setall 0 (vec 1)) ⟨0xFC, 7, 1, 0x55⟩ ⟨3, 0, 1, 2⟩ (.ok (.vec (vec 1))) = true
    ∧ client (.setall 0 (vec 1)) ⟨0xFD, 0, 1, 0xFC⟩ ⟨3, 0, 1, 2⟩ (err .proto 0xFCFD) = true
    ∧ nextIs (exec (.setall 256 (vec 1)) opened) (fun t => t.hostPort == err .rangeByte 1 && t.ev == []) = true := by
  decide

/-- QUERY: E9, and program P2's two garbage chunks. -/
theorem test_query :
    client (.query 0) ⟨0xFD, 0, 5, 0xF8⟩ ⟨2, 0, 0, 2⟩
      (.ok (.vec #v[true, false, true, false, false, false, false, false])) = true
    ∧ nextIs (exec (.query 0) { line (quadActs ⟨0x11, 0x22, 0x33, 0x44⟩ ++ quadActs ⟨3, 0, 1, 2⟩
          ++ quadActs ⟨0xFD, 0, 5, 0xF8⟩) with rxb := [0x99, 0x98] })
        (fun t => t.disc == 2 && t.rxf == ⟨0xFD, 0, 5, 0xF8⟩ && t.cn == 4 && t.xres == .ok && t.rxb == []
          && t.ev.length == 21) = true := by decide

/-- QUERY's failures: program P3 cases (b) and (d). -/
theorem test_query_failures :
    nextIs (exec (.query 0) (stale (line [.arrive 0xFD, .arrive 0, .silence]))) (fun t =>
      t.hostPort == err .connTrunc 2 && t.cn == 2 && t.rxf == ⟨0xAA, 0xAA, 0xAA, 0xAA⟩ && t.isOpen
      && t.ev == [.flush, .tx 2 0 0 2, .rxTake 0xFD, .rxTake 0, .chunkDone [0xFD, 0], .wait .pace 100]) = true
    ∧ nextIs (exec (.query 0) (stale (line (quadActs ⟨0xFC, 0, 1, 0xFD⟩)))) (fun t =>
      t.hostPort == err .proto 0xFDFC && t.xres == .ok && t.rxf == ⟨0xFC, 0, 1, 0xFD⟩ && t.errlog == []) = true := by
  decide

/-- ENABLE (95_test_vectors.md 2.4): a result, and the range error before the connection's (R278). -/
theorem test_enable :
    client (.enable 0 3) ⟨0xF9, 0, 8, 0xF1⟩ ⟨6, 0, 8, 0x0E⟩ (.ok .unit) = true
    ∧ nextIs (exec (.enable 0 9) State.reset) (fun t => t.hostPort == err .rangeIndex 9) = true := by decide

/-- DISABLE (95_test_vectors.md 2.4): a result, and a mismatch. -/
theorem test_disable :
    client (.disable 0 3) ⟨0xF8, 0, 0, 0xF8⟩ ⟨7, 0, 8, 0x0F⟩ (.ok .unit) = true
    ∧ client (.disable 0 0) ⟨0xF9, 0, 0, 0xF9⟩ ⟨7, 0, 1, 6⟩ (err .proto 0xF8F9) = true := by decide

/-- PULSE: program P4's variant Board(1, 0xA4). -/
theorem test_pulse :
    nextIs (exec (.pulse 1) (line (quadActs ⟨0xFD, 1, 0xA4, 0x58⟩ ++ quadActs ⟨0xFC, 1, 0xE4, 0x19⟩
        ++ quadActs ⟨0xFC, 1, 4, 0xF9⟩)))
      (fun t => t.pv == 4 && t.txf == ⟨3, 1, 4, 6⟩ && t.hostPort == .ok (.vec (vec 4)) && t.ev.length == 28
        && t.ev.contains (.tx 3 1 0xE4 0xE6) && t.ev.contains (.wait .pulseHold 500)) = true := by decide

/-- PULSE without an answer to its second exchange: program P4's last variant. -/
theorem test_pulse_unanswered :
    nextIs (exec (.pulse 1) (line (quadActs ⟨0xFD, 1, 1, 0xFD⟩ ++ [.silence])))
      (fun t => t.pv == 0xE1 && t.hostPort == err .connTrunc 0 && t.txf == ⟨3, 1, 0xE1, 0xE3⟩
        && !t.ev.contains (.wait .pulseHold 500)) = true := by decide

/-- Program P7: the optional checks. -/
theorem test_optional_checks :
    nextIs (exec (.setall 0 (vec 1)) { answering ⟨0xFC, 0, 1, 0⟩ with csumVerify := true }) (fun t =>
      t.hostPort == err .csum 0xFD00 && t.rxf == ⟨0xFC, 0, 1, 0⟩) = true
    ∧ nextIs (exec (.query 0) { stale (line (quadActs ⟨1, 2, 3, 4⟩ ++ quadActs ⟨5, 6, 7, 8⟩)) with maxDiscard := some 1 })
        (fun t => t.hostPort == err .desync 1 && t.disc == 1 && t.rxf == ⟨0xAA, 0xAA, 0xAA, 0xAA⟩) = true := by decide

/-- The resynchronisation function on four rows of 95_test_vectors.md 2.3. -/
theorem test_resync :
    resync false none 0 [[0x00, 0xFC, 0x00, 0x01], [0xFD]] = .fail (errConnTrunc 1) 1
    ∧ resync false none 0 [[0x41, 0x42], [0xFC, 0x00, 0x01, 0xFD]] = .ok ⟨0xFC, 0x00, 0x01, 0xFD⟩ 1
    ∧ resync false none 0 [[0xEF, 0x00, 0x00, 0xEF], []] = .fail (errConnTrunc 0) 1
    ∧ resync false (some 0) 0 [[1, 2, 3, 4], [0xFC, 0x00, 0x01, 0xFD]] = .fail (errDesync 0) 0 := by decide

/-! ## The pipeline -/

/-- A displayed state, and what a batch pushes from it. -/
def shows (b : Byte) : State := { State.reset with cur := b, curv := true }

/-- SUBMIT and its refusals (R235, U11). -/
theorem test_submit :
    nextIs (exec (.submit 3 40) State.reset) (fun t => t.reqq == ⟨[⟨3, 40⟩], 0, 0⟩ && t.fePort == .ok .unit) = true
    ∧ refusedAs (exec (.submit 3 4294967296) State.reset) .delayRange = true := by decide

/-- BATCH (95_test_vectors.md 2.5). -/
theorem test_batch :
    nextIs (exec (.batch .pulse [1, 2] (some 250)) (shows 0x10)) (fun t => t.reqq.items == [⟨0x13, 250⟩, ⟨0x10, 0⟩]) = true
    ∧ nextIs (exec (.batch .pulse [1] (some 100)) (shows 0x01)) (fun t => t.reqq.items == [⟨1, 100⟩, ⟨0, 0⟩]) = true
    ∧ nextIs (exec (.batch .activate [1] (some 999)) (shows 0x13)) (fun t => t.reqq.items == [⟨0x13, 0⟩]) = true
    ∧ nextIs (exec (.batch .activate [] none) (shows 0x55)) (fun t => t.reqq.items == [⟨0x55, 0⟩]) = true := by decide

/-- BATCH's stops (95_test_vectors.md 2.5). -/
theorem test_batch_stops :
    nextIs (exec (.batch .activate [9] none) (shows 1)) (fun t => t.fePort == err .rangeIndex 8 && t.reqq.items == []) = true
    ∧ refusedAs (exec (.batch .activate [1] none) State.reset) .noDisplayedState = true := by decide

/-- START_SW and START_DP, and a second start (R239, U14). -/
theorem test_starts :
    nextIs (exec .startSw State.reset) (fun t => t.ss == .top) = true
    ∧ nextIs (exec .startDp State.reset) (fun t => t.ds == .top) = true
    ∧ refusedAs (exec .startSw { State.reset with ss := .exited }) .notStopped = true := by decide

/-- SWITCHER at its top with one visible request, the line doing `acts`. -/
def serving (r : PendingRequest) (acts : List LineAct) : State := { line acts with ss := .top, reqq := ⟨[r], 1, 0⟩ }

/-- SW_ITER: program P6's two requests, the unanswered one logged as `(3, 0)`, the other's echo published. -/
theorem test_sw_iter :
    nextIs (exec .swIter (serving ⟨1, 0⟩ [.silence])) (fun t =>
      t.errlog == [errConnTrunc 0] && t.resq.items == [] && t.ss == .top) = true
    ∧ nextIs (exec .swIter (serving ⟨3, 40⟩ (quadActs ⟨0xFC, 0, 2, 0xFE⟩))) (fun t =>
      t.lres == 2 && t.resq == ⟨[2], 0, 0⟩ && t.errlog == [] && t.ev.getLast? == some (.wait .settle 40)) = true := by
  decide

/-- DP_ITER delivers the oldest visible confirmation (program P6), and exits on the sampled interrupt. -/
theorem test_dp_iter :
    nextIs (exec .dpIter { State.reset with ds := .top, resq := ⟨[2], 1, 0⟩ }) (fun t =>
      t.cur == 2 && t.curv && t.ev == [.pop (.resq 2), .notify 2] && t.ds == .top) = true
    ∧ nextIs (exec .dpIter { State.reset with ds := .top, intrDp := true }) (fun t =>
      t.doneDp && t.ds == .exited) = true := by decide

/-- The abstract FIFO of depth 2, the table of 95_test_vectors.md 2.5. -/
theorem test_fifo :
    let q := fifoPush (fifoPush (Fifo.empty (α := Byte)) 1) 2
    q = ⟨[1, 2], 0, 0⟩ ∧ fifoRoom (some 2) q 1 = false ∧ fifoHead q = none ∧ fifoSyncW 2 q = ⟨[1, 2], 2, 0⟩
    ∧ fifoPop (some 2) (fifoSyncW 2 q) = ⟨[2], 1, 1⟩ ∧ fifoSyncR (some 2) 0 ⟨[(2 : Byte)], 1, 1⟩ = ⟨[2], 1, 0⟩ := by decide

/-- The Gray-pointer realisation with `AW = 1` (95_test_vectors.md 2.5). -/
theorem test_gray :
    ([0, 1, 2, 3] : List (BitVec 2)).map gray = [0, 1, 3, 2]
    ∧ asyncFull (asyncPush 2 (asyncPush 1 (asyncReset 1 (0 : Byte)))) = true
    ∧ asyncEmpty (asyncReset 1 (0 : Byte)) = true := by decide

/-- A byte that arrives while the transport is closed is dropped (95_test_vectors.md 2.3). -/
theorem test_arrival_closed :
    nextIs (agentStep (.arrive 0x55) State.reset) (fun t => t == State.reset) = true := by decide

/-! ## Witnesses: the hypotheses of the statements of Certificates/Slice0/Obligations.lean are met, clause by clause.
A witness stands for the states it names; operands are at the ends of their ranges where the clauses meet. -/

/-- A capacity bound `∀ d, depth = some d → P d` at a finite depth. -/
theorem capacity {P : Nat → Prop} {n : Nat} (h : P n) : ∀ d, (some n : Option Nat) = some d → P d := by
  intro d e
  cases e
  exact h

/-- A bound on a duration that is present. -/
theorem present {P : Int → Prop} {n : Int} (h : P n) : ∀ d, (some n : Option Int) = some d → P d := by
  intro d e
  cases e
  exact h

/-- The parameters with every capacity finite: the queues of `2 ^ req` and `2 ^ res` entries. -/
def bounded (req res rxb : Nat) : Params :=
  { Params.defaults with depthReq := .pow2 req, depthRes := .pow2 res, rxbDepth := some rxb }

/-- The worker SWITCHER has exited, its last request in TXF, and the line is open: HOST holds the transport again. -/
def exited (acts : List LineAct) : State :=
  { writeTxf ⟨3, 0, 1, 2⟩ (line acts) with ss := .exited, doneSw := true }

theorem witness_LabelOrError :
    (8 : Byte) = (if 16 ≤ (0xF7 : Byte).toNat then 255 - (0xF7 : Byte) else 0xF7) ∧ (8 : Byte).toNat ≤ 8
    ∧ (9 : Byte) = (if 16 ≤ (0x09 : Byte).toNat then 255 - (0x09 : Byte) else 0x09) ∧ 8 < (9 : Byte).toNat := by decide

theorem witness_EncodeWritesTxf :
    hostReady (exited [])
    ∧ ((0 : Int) ≤ 255 ∧ (255 : Int) ≤ 255) ∧ ((0 : Int) ≤ 0 ∧ (0 : Int) ≤ 255)
    ∧ ((256 : Int) < 0 ∨ 255 < (256 : Int)) ∧ ((-1 : Int) < 0 ∨ 255 < (-1 : Int)) := by decide

theorem witness_CodecLaws : (8 : Byte).toNat ≤ 8 ∧ 0xF0 ≤ (0xF0 : Byte).toNat := by decide

theorem witness_DecodeAndResponseCodes : (8 : Byte).toNat ≤ 8 := by decide

theorem witness_RelayVectorOps :
    ((0 : Int) ≤ 255 ∧ (255 : Int) ≤ 255) ∧ ((256 : Int) < 0 ∨ 255 < (256 : Int))
    ∧ ((0 : Int) ≤ 7 ∧ (7 : Int) ≤ 7) ∧ ((8 : Int) < 0 ∨ 7 < (8 : Int)) := by decide

theorem witness_ConnectOutcomes :
    (hostReady { State.reset with lineOpenOk := true } ∧ State.reset.isOpen = false ∧ hostReady State.reset
      ∧ State.reset.lineOpenOk = false)
    ∧ (hostReady opened ∧ opened.isOpen = true) ∧ ¬ hostReady { State.reset with ss := .top }
    ∧ ¬ hostReady { opened with xs := .read } := by decide

theorem witness_ShutdownOutcomes :
    (hostReady (exited []) ∧ (exited []).isOpen = true) ∧ (hostReady State.reset ∧ State.reset.isOpen = false)
    ∧ ¬ hostReady { opened with ss := .wait } ∧ ¬ hostReady { opened with ps := .busy } := by decide

theorem witness_LineArrival :
    ({ opened with params := bounded 1 1 4, rxb := [1, 2, 3] }.isOpen = true
      ∧ ∀ d, ({ opened with params := bounded 1 1 4, rxb := [1, 2, 3] } : State).params.rxbDepth = some d →
        ({ opened with params := bounded 1 1 4, rxb := [1, 2, 3] } : State).rxb.length < d)
    ∧ State.reset.isOpen = false
    ∧ (bounded 1 1 3).rxbDepth = some 3 ∧ 3 ≤ ({ opened with rxb := [1, 2, 3] } : State).rxb.length :=
  ⟨⟨by decide, capacity (by decide)⟩, by decide, by decide, by decide⟩

theorem witness_FlushAndWriteSteps :
    (({ reading with xs := .flush } : State).ss ≠ .exch ∧ ({ reading with xs := .flush } : State).xs = .flush)
    ∧ (({ reading with ss := .exch, cop := .setall, xs := .write } : State).ss = .exch
      ∧ ({ reading with ss := .exch, cop := .setall, xs := .write } : State).xs = .write) := by
  decide

/-- `X_READ` with a chunk of `k` bytes begun, its first byte `b`. -/
def midChunk (k : Nat) (b : Byte) : State := { reading with cn := k, ch := ⟨b, 0, 0, 0⟩ }

theorem witness_TimeoutVerdicts :
    (reading.xs = .read ∧ reading.rxb = [] ∧ reading.cn = 0)
    ∧ ((midChunk 3 0xF0).xs = .read ∧ (midChunk 3 0xF0).rxb = [] ∧ 0 < (midChunk 3 0xF0).cn
      ∧ (midChunk 3 0xF0).cn < 4 ∧ 0xF0 ≤ (midChunk 3 0xF0).ch.b0.toNat)
    ∧ ((midChunk 1 0xEF).xs = .read ∧ (midChunk 1 0xEF).rxb = [] ∧ 0 < (midChunk 1 0xEF).cn
      ∧ (midChunk 1 0xEF).cn < 4 ∧ (midChunk 1 0xEF).ch.b0.toNat < 0xF0
      ∧ (midChunk 1 0xEF).maxDiscard ≠ some (midChunk 1 0xEF).disc)
    ∧ ({ midChunk 1 0xEF with maxDiscard := some 0 } : State).maxDiscard
      = some ({ midChunk 1 0xEF with maxDiscard := some 0 } : State).disc := by decide

/-- The fourth byte of a chunk is in RXB, the chunk's first byte being `b`. -/
def lastByte (b : Byte) : State := { midChunk 3 b with rxb := [b] }

theorem witness_TakeVerdicts :
    (({ lastByte 0xF0 with cn := 2 } : State).xs = .read ∧ ({ lastByte 0xF0 with cn := 2 } : State).ss ≠ .exch
      ∧ ({ lastByte 0xF0 with cn := 2 } : State).rxb = [0xF0] ∧ ({ lastByte 0xF0 with cn := 2 } : State).cn < 3)
    ∧ ((lastByte 0xF0).xs = .read ∧ (lastByte 0xF0).ss ≠ .exch ∧ (lastByte 0xF0).rxb = [0xF0] ∧ (lastByte 0xF0).cn = 3
      ∧ (⟨0xF0, 0, 0, 0xF0⟩ : Quad) = { (lastByte 0xF0).ch with b3 := 0xF0 }
      ∧ checkPasses { lastByte 0xF0 with csumVerify := true } ⟨0xF0, 0, 0, 0xF0⟩)
    ∧ ({ lastByte 0xF0 with rxb := [0], csumVerify := true }.rxb = [0]
      ∧ ¬ checkPasses { lastByte 0xF0 with rxb := [0], csumVerify := true } ⟨0xF0, 0, 0, 0⟩)
    ∧ ((lastByte 0xEF).cn = 3 ∧ (⟨0xEF, 0, 0, 0xEF⟩ : Quad) = { (lastByte 0xEF).ch with b3 := 0xEF }
      ∧ (0xEF : Byte).toNat < 0xF0 ∧ (lastByte 0xEF).maxDiscard ≠ some (lastByte 0xEF).disc)
    ∧ ({ lastByte 0xEF with maxDiscard := some 0 } : State).maxDiscard
      = some ({ lastByte 0xEF with maxDiscard := some 0 } : State).disc := by decide

/-- The pace wait of raw COMMUNICATE, with the verdict `v`. -/
def pacing (v : Verdict) : State := { reading with xs := .pace, xres := v }

theorem witness_PaceCompletesCommunicate :
    ((pacing .ok).xs = .pace ∧ (pacing .ok).ss ≠ .exch ∧ (pacing .ok).cop = .raw ∧ (pacing .ok).xres = .ok)
    ∧ ((pacing (.err (errConnTrunc 2))).xs = .pace ∧ (pacing (.err (errConnTrunc 2))).ss ≠ .exch
      ∧ (pacing (.err (errConnTrunc 2))).cop = .raw ∧ (pacing (.err (errConnTrunc 2))).xres = .err (errConnTrunc 2)) := by
  decide

/-- PULSE between two of its exchanges, in `X_IDLE`. -/
def between (c : ClientOp) : State :=
  { writeTxf ⟨2, 1, 0, 3⟩ (writeRxf ⟨0xFD, 1, 1, 0xFD⟩ opened) with cop := c, ps := .busy, pv := 0xE1 }

/-- The states from which the owner has a step, one for each state of XS and each step of PULSE between its exchanges,
and steps of other agents (XsTransitions, ExchangeFrame). -/
theorem witness_XsTransitions :
    (ownerStep { reading with xs := .flush }).isSome = true ∧ (ownerStep { reading with xs := .write }).isSome = true
    ∧ (ownerStep (lastByte 0xFC)).isSome = true ∧ (ownerStep (pacing .ok)).isSome = true
    ∧ (ownerStep { between (.pulseQuery 1) with xs := .pace, xres := .ok }).isSome = true
    ∧ (ownerStep (between (.pulseSet 1))).isSome = true ∧ (ownerStep (between (.pulseHold 1))).isSome = true
    ∧ (ownerStep (between (.pulseClear 1))).isSome = true
    ∧ nextIs (agentStep (.issue (.query 0)) opened) (fun t => t.xs == .flush) = true
    ∧ nextIs (agentStep .readTimeout reading) (fun t => t.xs == .pace) = true := by decide

/-- PULSE's steps between its exchanges (R188, R208, R12): the pace step of its QUERY ends in `X_IDLE`, the set step
starts the second exchange, the hold appends its event and touches no other register, the clear step starts the third
exchange. -/
theorem test_pulse_between :
    nextIs (agentStep .own { between (.pulseQuery 1) with xs := .pace, xres := .ok }) (fun t =>
      t.xs == .idle && t.cop == .pulseSet 1 && t.pv == 0xE1) = true
    ∧ nextIs (agentStep .own (between (.pulseSet 1))) (fun t => t.xs == .flush && t.txf == ⟨3, 1, 0xE1, 0xE3⟩) = true
    ∧ nextIs (agentStep .own (between (.pulseHold 1))) (fun t =>
        t == { between (.pulseClear 1) with ev := [.wait .pulseHold 500] }) = true
    ∧ nextIs (agentStep .own (between (.pulseClear 1))) (fun t =>
        t.xs == .flush && t.pv == 1 && t.txf == ⟨3, 1, 1, 3⟩) = true := by decide

theorem witness_ExchangeFrame : ownerStep (lastByte 0xFC) = some (xTake 0xFC [] (lastByte 0xFC)) := by decide

theorem witness_ResyncDiscardsGarbage :
    (∀ g ∈ [(⟨0xEF, 0, 0, 0xEF⟩ : Quad), ⟨0x00, 0xFC, 0, 1⟩], g.b0.toNat < 0xF0) ∧ 0xF0 ≤ (0xF0 : Byte).toNat
    ∧ (true = false ∨ (0xF0 : Byte) = 0xF0 ^^^ 0 ^^^ 0)
    ∧ (∀ m, (some 2 : Option Nat) = some m → [(⟨0xEF, 0, 0, 0xEF⟩ : Quad), ⟨0x00, 0xFC, 0, 1⟩].length ≤ m) :=
  ⟨by decide, by decide, by decide, capacity (by decide)⟩

theorem witness_BoundedResyncEnds : 1 + 1 ≤ ([[1, 2, 3, 4], [5, 6]] : List (List Byte)).length := by decide

/-- One state meets the hypotheses; the chunk lists reach the three results of RESYNC. -/
theorem witness_ResyncIsTheReadLoop :
    (reading.xs = .read ∧ reading.cn = 0 ∧ reading.rxb = [] ∧ reading.cop = .raw ∧ reading.ss ≠ .exch
      ∧ reading.isOpen = true ∧ rxbUsable reading)
    ∧ (∀ c ∈ ([[1, 2, 3, 4], [0xFC, 0, 1, 0xFD]] : List (List Byte)), c.length ≤ 4)
    ∧ resync false none 0 [[1, 2, 3, 4]] = .reading 1
    ∧ resync false none 0 [[1, 2, 3, 4], [0xFC, 0, 1, 0xFD]] = .ok ⟨0xFC, 0, 1, 0xFD⟩ 1
    ∧ resync false none 0 [[]] = .fail (errConnTrunc 0) 0 := by decide

/-- The read loop of that state on the same three lists. -/
theorem test_read_loop :
    (drive (chunkActs [1, 2, 3, 4]) reading).disc = 1 ∧ (drive (chunkActs [1, 2, 3, 4]) reading).xs = .read
    ∧ (drive (chunkActs [1, 2] ++ chunkActs [0xFC, 0, 1, 0xFD]) reading).hostPort = .ok (.frame ⟨0xFC, 0, 1⟩)
    ∧ (drive (chunkActs []) reading).hostPort = err .connTrunc 0 := by decide

/-- An answer whose command byte is `b` and whose checksum is right, with the check on and RXB_DEPTH at its least. -/
def checked (b : Byte) : State :=
  { exited (quadActs ⟨b, 0, 1, b ^^^ 1⟩ ++ [.silence]) with csumVerify := true, params := bounded 1 1 1 }

theorem witness_RequestFramesComplete :
    hostReady (checked 0xF0) ∧ (checked 0xF0).isOpen = true ∧ rxbUsable (checked 0xF0) ∧ 0xF0 ≤ (0xF0 : Byte).toNat
    ∧ checkPasses (checked 0xF0) ⟨0xF0, 0, 1, 0xF1⟩
    ∧ (checked 0xF0).lineIn = quadActs ⟨0xF0, 0, 1, 0xF1⟩ ++ [.silence]
    ∧ ((8 : Byte), Instr.toggle 0 0xFF 0xF7) ∈ [((0 : Byte), Instr.noop 0 0xFF 0xF7), (1, .setup 0 0xFF 0xF7),
        (2, .getport 0 0xFF 0xF7), (3, .setport 0 0xFF 0xF7), (4, .getoption 0 0xFF 0xF7),
        (5, .setoption 0 0xFF 0xF7), (6, .setsingle 0 0xFF 0xF7), (7, .delsingle 0 0xFF 0xF7),
        (8, .toggle 0 0xFF 0xF7)] := by decide

theorem witness_CommunicateCompletes :
    hostReady (answering ⟨0xFF, 0, 1, 0⟩) ∧ (answering ⟨0xFF, 0, 1, 0⟩).isOpen = true
    ∧ rxbUsable (answering ⟨0xFF, 0, 1, 0⟩) ∧ (answering ⟨0xFF, 0, 1, 0⟩).txfWritten = false
    ∧ checkPasses (answering ⟨0xFF, 0, 1, 0⟩) ⟨0xFF, 0, 1, 0⟩
    ∧ (answering ⟨0xFF, 0, 1, 0⟩).lineIn = quadActs ⟨0xFF, 0, 1, 0⟩ ++ [.silence]
    ∧ hostReady (writeTxf ⟨8, 0, 0, 8⟩ (checked 0xFF)) ∧ (checked 0xFF).isOpen = true ∧ rxbUsable (checked 0xFF)
    ∧ (writeTxf ⟨8, 0, 0, 8⟩ (checked 0xFF)).txfWritten = true ∧ (writeTxf ⟨8, 0, 0, 8⟩ (checked 0xFF)).txf.b0.toNat ≤ 8
    ∧ 0xF0 ≤ (0xFF : Byte).toNat ∧ checkPasses (checked 0xFF) ⟨0xFF, 0, 1, 0xFE⟩
    ∧ (writeTxf ⟨8, 0, 0, 8⟩ (checked 0xFF)).lineIn = quadActs ⟨0xFF, 0, 1, 0xFE⟩ ++ [.silence] := by decide

/-- The hypotheses with the right command byte, for each of the four operations, operands at their ends. -/
theorem witness_ClientOpsComplete :
    (0 : Int) ≤ 255 ∧ (255 : Int) ≤ 255 ∧ (0 : Int) ≤ 7 ∧ (7 : Int) ≤ 7
    ∧ (∀ b ∈ ([0xFC, 0xFD, 0xF9, 0xF8] : List Byte), hostReady (checked b) ∧ (checked b).isOpen = true
      ∧ rxbUsable (checked b) ∧ checkPasses (checked b) ⟨b, 0, 1, b ^^^ 1⟩
      ∧ (checked b).lineIn = quadActs ⟨b, 0, 1, b ^^^ 1⟩ ++ [.silence]) := by decide

/-- The same states answer the wrong operation: each of the four meets a command byte that is not its own. -/
theorem witness_WrongCommandFails :
    (0 : Int) ≤ 0 ∧ (0 : Int) ≤ 255 ∧ (0 : Int) ≤ 7
    ∧ hostReady (checked 0xF0) ∧ (checked 0xF0).isOpen = true ∧ rxbUsable (checked 0xF0)
    ∧ checkPasses (checked 0xF0) ⟨0xF0, 0, 1, 0xF1⟩ ∧ 0xF0 ≤ (0xF0 : Byte).toNat
    ∧ (checked 0xF0).lineIn = quadActs ⟨0xF0, 0, 1, 0xF1⟩ ++ [.silence]
    ∧ (0xF0 : Byte) ≠ 0xFC ∧ (0xF0 : Byte) ≠ 0xFD ∧ (0xF0 : Byte) ≠ 0xF9 ∧ (0xF0 : Byte) ≠ 0xF8 := by decide

/-- The check is on and the answer's checksum byte is wrong. -/
def badAnswer : State := { writeTxf ⟨3, 0, 1, 2⟩ (answering ⟨0xFC, 0, 1, 0⟩) with csumVerify := true }

theorem witness_BadChecksumFails :
    hostReady badAnswer ∧ badAnswer.isOpen = true ∧ rxbUsable badAnswer ∧ 0xF0 ≤ (0xFC : Byte).toNat
    ∧ badAnswer.csumVerify = true ∧ (0 : Byte) ≠ 0xFC ^^^ 0 ^^^ 1
    ∧ badAnswer.lineIn = quadActs ⟨0xFC, 0, 1, 0⟩ ++ [.silence]
    ∧ badAnswer.txfWritten = true ∧ badAnswer.txf.b0.toNat ≤ 8
    ∧ (0 : Int) ≤ 255 ∧ (255 : Int) ≤ 255 := by decide

theorem witness_NoAnswerFails :
    (0 : Int) ≤ 255 ∧ (255 : Int) ≤ 255 ∧ (0 : Int) ≤ 7 ∧ (7 : Int) ≤ 7
    ∧ hostReady (exited [.silence]) ∧ (exited [.silence]).isOpen = true ∧ (exited [.silence]).lineIn = .silence :: []
    ∧ (exited [.silence]).txfWritten = true ∧ (exited [.silence]).txf.b0.toNat ≤ 8 := by decide

theorem witness_ClosedTransportFails :
    (0 : Int) ≤ 255 ∧ (255 : Int) ≤ 255 ∧ (0 : Int) ≤ 7 ∧ (7 : Int) ≤ 7
    ∧ hostReady State.reset ∧ State.reset.isOpen = false ∧ State.reset.txfWritten = false
    ∧ hostReady (writeTxf ⟨8, 0, 0, 8⟩ State.reset) ∧ (writeTxf ⟨8, 0, 0, 8⟩ State.reset).isOpen = false
    ∧ (writeTxf ⟨8, 0, 0, 8⟩ State.reset).txfWritten = true ∧ (writeTxf ⟨8, 0, 0, 8⟩ State.reset).txf.b0.toNat ≤ 8
    ∧ ((8 : Byte), Instr.toggle 1 2 3) ∈ [((0 : Byte), Instr.noop 1 2 3), (1, .setup 1 2 3), (2, .getport 1 2 3),
        (3, .setport 1 2 3), (4, .getoption 1 2 3), (5, .setoption 1 2 3), (6, .setsingle 1 2 3),
        (7, .delsingle 1 2 3), (8, .toggle 1 2 3)] := by decide

/-- Both range errors with the transport closed as well as open. -/
theorem witness_RangeErrorsFirst :
    hostReady State.reset ∧ State.reset.cop = .none ∧ hostReady opened ∧ opened.cop = .none
    ∧ ((256 : Int) < 0 ∨ 255 < (256 : Int)) ∧ ((-1 : Int) < 0 ∨ 255 < (-1 : Int))
    ∧ Instr.pulse 256 ∈ [Instr.setall 256 (vec 0), .query 256, .enable 256 8, .disable 256 8, .pulse 256]
    ∧ (0 : Int) ≤ 255 ∧ (255 : Int) ≤ 255 ∧ ((8 : Int) < 0 ∨ 7 < (8 : Int))
    ∧ Instr.disable 255 8 ∈ [Instr.enable 255 8, .disable 255 8] := by decide

/-- PULSE's five failures part way: the states are the pulse's after an answer `c1` to its QUERY and the acts `more`. -/
def pulseAnswered (c1 : Quad) (more : List LineAct) : State := line (quadActs c1 ++ more)

theorem witness_PulseFailsPartWay :
    (0 : Int) ≤ 255 ∧ (255 : Int) ≤ 255
    ∧ (∀ s ∈ [pulseAnswered ⟨0xFC, 1, 1, 0xFC⟩ [.silence], pulseAnswered ⟨0xFD, 1, 1, 0xFD⟩ [.silence],
        pulseAnswered ⟨0xFD, 1, 1, 0xFD⟩ (quadActs ⟨0xF0, 0, 0, 0xF0⟩ ++ []),
        pulseAnswered ⟨0xFD, 1, 1, 0xFD⟩ (quadActs ⟨0xFC, 1, 1, 0xFC⟩ ++ [.silence]),
        pulseAnswered ⟨0xFD, 1, 1, 0xFD⟩ (quadActs ⟨0xFC, 1, 1, 0xFC⟩ ++ quadActs ⟨0xF0, 0, 0, 0xF0⟩)],
      hostReady s ∧ s.isOpen = true ∧ rxbUsable s ∧ checkPasses s ⟨0xFC, 1, 1, 0xFC⟩
      ∧ checkPasses s ⟨0xFD, 1, 1, 0xFD⟩ ∧ checkPasses s ⟨0xF0, 0, 0, 0xF0⟩)
    ∧ 0xF0 ≤ (0xFC : Byte).toNat ∧ (0xFC : Byte) ≠ 0xFD ∧ 0xF0 ≤ (0xF0 : Byte).toNat ∧ (0xF0 : Byte) ≠ 0xFC := by
  decide

/-- Program P4: a board with relays 2, 5 and 7 on. -/
def pulsing : State :=
  { line (quadActs ⟨0xFD, 1, 0xA4, 0x58⟩ ++ quadActs ⟨0xFC, 1, 0xE4, 0x19⟩ ++ quadActs ⟨0xFC, 1, 4, 0xF9⟩ ++ [.silence])
    with csumVerify := true }

theorem witness_PulseCompletes :
    (0 : Int) ≤ 1 ∧ (1 : Int) ≤ 255 ∧ hostReady pulsing ∧ pulsing.isOpen = true ∧ rxbUsable pulsing
    ∧ checkPasses pulsing ⟨0xFD, 1, 0xA4, 0x58⟩ ∧ checkPasses pulsing ⟨0xFC, 1, 0xE4, 0x19⟩
    ∧ checkPasses pulsing ⟨0xFC, 1, 4, 0xF9⟩
    ∧ pulsing.lineIn = quadActs ⟨0xFD, 1, 0xA4, 0x58⟩ ++ quadActs ⟨0xFC, 1, 0xE4, 0x19⟩
      ++ quadActs ⟨0xFC, 1, 4, 0xF9⟩ ++ [.silence]
    ∧ requestQuad 3 (BitVec.ofInt 8 1) (0xA4 ||| 0xE0) = ⟨3, 1, 0xE4, 0xE6⟩
    ∧ requestQuad 3 (BitVec.ofInt 8 1) (0xA4 &&& 0x1F) = ⟨3, 1, 4, 6⟩ := by decide

theorem witness_DirectRefusals :
    Instr.connect ∈ [Instr.connect, .communicate, .shutdown, .setall 0 (vec 0), .query 0, .enable 0 0, .disable 0 0,
      .pulse 0, .encode 0 0 0, .noop 0 0 0, .setup 0 0 0, .getport 0 0 0, .setport 0 0 0, .getoption 0 0 0,
      .setoption 0 0 0, .setsingle 0 0 0, .delsingle 0 0 0, .toggle 0 0 0]
    ∧ (({ opened with ss := .top } : State).ss ≠ .stopped ∧ ({ opened with ss := .top } : State).ss ≠ .exited)
    ∧ ((reading.ss = .stopped ∨ reading.ss = .exited) ∧ (reading.xs ≠ .idle ∨ reading.ps ≠ .idle))
    ∧ ((between (.pulseHold 1)).ss = .stopped ∧ (between (.pulseHold 1)).xs = .idle
      ∧ (between (.pulseHold 1)).ps ≠ .idle)
    ∧ (hostReady (writeTxf ⟨9, 0, 0, 9⟩ opened) ∧ (writeTxf ⟨9, 0, 0, 9⟩ opened).txfWritten = true
      ∧ 8 < (writeTxf ⟨9, 0, 0, 9⟩ opened).txf.b0.toNat) := by
  decide

theorem witness_ControlRegisterWrites :
    (hostHolds opened = true ∧ opened.xs = .idle) ∧ (hostHolds reading = true ∧ reading.xs ≠ .idle)
    ∧ (opened.txfWritten = false ∧ opened.rxfWritten = false)
    ∧ (hostHolds (stale reading) = true ∧ (stale reading).txfWritten = true ∧ (stale reading).rxfWritten = true)
    ∧ hostHolds { opened with ss := .settle } = false ∧ ControlReg.rxf ≠ .status := by decide

/-- Reading the control registers (R25, R290): RXF once it is written, and TXF before, which draws a free value;
MAX_DISCARD by the holder, STATUS by HOST while SWITCHER holds the transport, RXF then refused. -/
theorem test_read_registers :
    nextIs (agentStep (.readReg .rxf) (stale reading)) (fun t =>
      t == { stale reading with regPort := .ok (.bytes ⟨0xAA, 0xAA, 0xAA, 0xAA⟩) }) = true
    ∧ nextIs (agentStep (.readReg .txf) opened) (fun t => t.drawn == 1 && t.txf == opened.txf) = true
    ∧ refusedAs (agentStep (.readReg .maxDiscard) reading) .busy = true
    ∧ nextIs (agentStep (.readReg .status) { reading with ss := .exch }) (fun t =>
      t.regPort == .ok (.status ⟨true, .read, .idle, .exch, .stopped, false, false, 0, 0, false⟩)) = true
    ∧ refusedAs (agentStep (.readReg .rxf) { opened with ss := .settle }) .notHolder = true := by decide

theorem witness_ReceivedFramesArrive :
    encode (.rsvdLow0909 0 0 9) = some [0x09, 0, 0, 9] ∧ 9 ≤ (0x09 : Byte).toNat
    ∧ encode (.rNoop 0 0 0xFF) = some [0xFF, 0, 0, 0xFF]
    ∧ (State.reset.xs ≠ .read ∧ State.reset.isOpen = false) ∧ (opened.xs ≠ .read ∧ opened.isOpen = true)
    ∧ ((between (.pulseHold 1)).xs ≠ .read ∧ (between (.pulseHold 1)).isOpen = true)
    ∧ (∀ d, ({ opened with params := bounded 1 1 5, rxb := [1] } : State).params.rxbDepth = some d →
      ({ opened with params := bounded 1 1 5, rxb := [1] } : State).rxb.length + 4 ≤ d) :=
  ⟨by decide, by decide, by decide, by decide, by decide, by decide, capacity (by decide)⟩

theorem witness_ReceivedFramesInExchange :
    encode (.rsvdHighF0F3 0 0 0 0) = some [0xF0, 0, 0, 0] ∧ encode (.rsvdMidE0EF 15 0 0 0) = some [0xEF, 0, 0, 0]
    ∧ 9 ≤ (0xEF : Byte).toNat ∧ 0xF0 ≤ (0xF0 : Byte).toNat ∧ (0xEF : Byte).toNat < 0xF0
    ∧ (reading.xs = .read ∧ reading.cn = 0 ∧ reading.rxb = [] ∧ reading.cop = .raw ∧ reading.ss ≠ .exch
      ∧ reading.isOpen = true ∧ checkPasses reading ⟨0xF0, 0, 0, 0⟩ ∧ reading.maxDiscard = none)
    ∧ (∀ d, ({ reading with params := bounded 1 1 4 } : State).params.rxbDepth = some d → 4 ≤ d) :=
  ⟨by decide, by decide, by decide, by decide, by decide, by decide, capacity (by decide)⟩

theorem witness_FifoStaysLegal :
    fifoLegal (some 3) (⟨[(1 : Byte), 2], 2, 0⟩ : Fifo Byte) ∧ fifoRoom (some 3) (⟨[(1 : Byte), 2], 2, 0⟩ : Fifo Byte) 1 = true
    ∧ fifoHead (⟨[(1 : Byte), 2], 2, 0⟩ : Fifo Byte) = some 1 :=
  ⟨⟨by decide, by decide⟩, by decide, by decide⟩

/-- Both queues of depth 4, each with an entry the consumer does not see and slots the producer does not know of. -/
def syncing : State :=
  { opened with params := bounded 2 2 4, reqq := ⟨[⟨1, 0⟩, ⟨2, 0⟩], 1, 1⟩, resq := ⟨[7], 0, 2⟩ }

theorem witness_FifoSteps :
    (⟨[(1 : Byte), 2], 1, 1⟩ : Fifo Byte).items = 1 :: [2] ∧ 0 < (⟨[(1 : Byte), 2], 1, 1⟩ : Fifo Byte).vis
    ∧ (⟨[(1 : Byte), 2], 1, 1⟩ : Fifo Byte).vis < 2 ∧ 2 ≤ (⟨[(1 : Byte), 2], 1, 1⟩ : Fifo Byte).items.length
    ∧ 0 < (⟨[(1 : Byte), 2], 1, 1⟩ : Fifo Byte).freed
    ∧ (syncing.reqq.vis < 2 ∧ 2 ≤ syncing.reqq.items.length ∧ syncing.params.qdepthReq = some 4 ∧ 0 < syncing.reqq.freed)
    ∧ (syncing.resq.vis < 1 ∧ 1 ≤ syncing.resq.items.length ∧ syncing.params.qdepthRes = some 4 ∧ 1 < syncing.resq.freed)
    ∧ (1 ≤ syncing.reqq.vis ∧ syncing.resq.items.length < 2 ∧ syncing.reqq.freed ≤ 1
      ∧ opened.params.qdepthRes = none) := by decide

/-- The steps of SYNC on that state move the one count (R231), and a draw that is not allowed moves none. -/
theorem test_sync :
    nextIs (agentStep (.syncReqW 2) syncing) (fun t => t == { syncing with reqq := ⟨[⟨1, 0⟩, ⟨2, 0⟩], 2, 1⟩ }) = true
    ∧ nextIs (agentStep (.syncResW 1) syncing) (fun t => t == { syncing with resq := ⟨[7], 1, 2⟩ }) = true
    ∧ nextIs (agentStep (.syncReqR 0) syncing) (fun t => t == { syncing with reqq := ⟨[⟨1, 0⟩, ⟨2, 0⟩], 1, 0⟩ }) = true
    ∧ nextIs (agentStep (.syncResR 2) syncing) (fun t => t == syncing) = true := by decide

/-- REQQ of depth 2 holding `items`, with `freed` slots not yet known to be free. -/
def queued (items : List PendingRequest) (freed : Nat) : State :=
  { State.reset with params := bounded 1 1 4, reqq := ⟨items, 0, freed⟩ }

theorem witness_SubmitOutcomes :
    ((⟨3, 4294967295⟩ : PendingRequest) = { target := 3, settle := (4294967295 : Int).toNat }
      ∧ (0 : Int) ≤ 4294967295 ∧ (4294967295 : Int) < 2 ^ (queued [⟨1, 0⟩] 0).params.delayW
      ∧ (queued [⟨1, 0⟩] 0).feWait = []
      ∧ ∀ d, (queued [⟨1, 0⟩] 0).params.qdepthReq = some d →
        (queued [⟨1, 0⟩] 0).reqq.items.length + (queued [⟨1, 0⟩] 0).reqq.freed < d)
    ∧ ((queued [⟨1, 0⟩] 1).params.qdepthReq = some 2
      ∧ 2 ≤ (queued [⟨1, 0⟩] 1).reqq.items.length + (queued [⟨1, 0⟩] 1).reqq.freed)
    ∧ ((-1 : Int) < 0 ∨ (2 : Int) ^ State.reset.params.delayW ≤ -1)
    ∧ ((4294967296 : Int) < 0 ∨ (2 : Int) ^ State.reset.params.delayW ≤ 4294967296)
    ∧ ({ queued [⟨1, 0⟩] 0 with feWait := [.submit ⟨3, 0⟩] } : State).feWait = .submit ⟨3, 0⟩ :: [] :=
  ⟨⟨by decide, by decide, by decide, by decide, capacity (by decide)⟩, by decide, by decide, by decide, by decide⟩

/-- REQQ of depth 2 with room for one entry or none, the displayed state being 0x10, HOST held with `ws`. -/
def held (freed : Nat) (ws : List FeRequest) : State :=
  { queued [⟨1, 0⟩] freed with cur := 0x10, curv := true, feWait := ws }

theorem witness_BatchPushes :
    (held 0 []).curv = true ∧ (∀ t ∈ ([1, 8] : List Int), 1 ≤ t ∧ t ≤ 8)
    ∧ (∀ ms, (some 4294967295 : Option Int) = some ms → 0 ≤ ms ∧ ms < 2 ^ (held 0 []).params.delayW)
    ∧ (held 0 []).feWait = []
    ∧ (∀ d, (held 0 []).params.qdepthReq = some d → (held 0 []).reqq.items.length + (held 0 []).reqq.freed + 1 ≤ d)
    ∧ (∀ d, ({ shows 0x10 with params := bounded 1 1 4 } : State).params.qdepthReq = some d →
      ({ shows 0x10 with params := bounded 1 1 4 } : State).reqq.items.length
        + ({ shows 0x10 with params := bounded 1 1 4 } : State).reqq.freed + 2 ≤ d) :=
  ⟨by decide, by decide, present (by decide), by decide, capacity (by decide), capacity (by decide)⟩

/-- Each clause of BatchStopsAndHolds: no displayed state, a delay that does not fit, a target out of range, one free
slot for a pulse and none for any action, a held batch with room and without. -/
theorem witness_BatchStopsAndHolds :
    State.reset.curv = false
    ∧ ((4294967296 : Int) < 0 ∨ (2 : Int) ^ (shows 1).params.delayW ≤ 4294967296)
    ∧ ((shows 1).curv = true
      ∧ (∀ ms, (some 0 : Option Int) = some ms → 0 ≤ ms ∧ ms < 2 ^ (shows 1).params.delayW)
      ∧ (∀ u ∈ ([8] : List Int), 1 ≤ u ∧ u ≤ 8) ∧ ((9 : Int) < 1 ∨ 8 < (9 : Int)) ∧ ((0 : Int) < 1 ∨ 8 < (0 : Int)))
    ∧ ((held 0 []).params.qdepthReq = some 2 ∧ 2 < (held 0 []).reqq.items.length + (held 0 []).reqq.freed + 2)
    ∧ ((held 1 []).params.qdepthReq = some 2 ∧ 2 < (held 1 []).reqq.items.length + (held 1 []).reqq.freed + 1)
    ∧ (held 0 [.batch .activate [1] 0]).feWait ≠ []
    ∧ ((held 0 [.batch .activate [1] 0]).feWait = .batch .activate [1] 0 :: []
      ∧ ∀ d, (held 0 [.batch .activate [1] 0]).params.qdepthReq = some d →
        (held 0 [.batch .activate [1] 0]).reqq.items.length + (held 0 [.batch .activate [1] 0]).reqq.freed + 1 ≤ d) :=
  ⟨by decide, by decide, ⟨by decide, present (by decide), by decide, by decide, by decide⟩, by decide, by decide,
    by decide, by decide, capacity (by decide)⟩

/-- A held batch is pushed when there is room, from CUR as it stands then, and waits while there is none (R229). -/
theorem test_held_batch :
    nextIs (agentStep .frontEnd (held 0 [.batch .activate [1] 0])) (fun t =>
      t.reqq.items == [⟨1, 0⟩, ⟨0x11, 0⟩] && t.feWait == [] && t.fePort == .ok .unit) = true
    ∧ nextIs (agentStep .frontEnd (held 0 [.batch .pulse [1] 5])) (fun t =>
      t == held 0 [.batch .pulse [1] 5]) = true := by decide

theorem witness_StartWorkers :
    (opened.ss = .stopped ∧ opened.xs = .idle ∧ opened.ps = .idle) ∧ ({ opened with ss := .exited } : State).ss ≠ .stopped
    ∧ (reading.ss = .stopped ∧ (reading.xs ≠ .idle ∨ reading.ps ≠ .idle))
    ∧ opened.ds = .stopped ∧ ({ opened with ds := .exited } : State).ds ≠ .stopped := by decide

theorem witness_SwitcherSteps :
    (({ opened with ss := .top, intrSw := true } : State).ss = .top
      ∧ ({ opened with ss := .top, intrSw := true } : State).intrSw = true)
    ∧ ((serving ⟨1, 0⟩ []).ss = .top ∧ (serving ⟨1, 0⟩ []).intrSw = false)
    ∧ (({ serving ⟨1, 0⟩ [] with ss := .wait } : State).ss = .wait
      ∧ (serving ⟨1, 0⟩ []).reqq.items = ⟨1, 0⟩ :: [] ∧ 0 < (serving ⟨1, 0⟩ []).reqq.vis
      ∧ (serving ⟨1, 0⟩ []).params.qdepthReq = none)
    ∧ (({ opened with ss := .wait } : State).ss = .wait ∧ ({ opened with ss := .wait } : State).reqq.vis = 0)
    ∧ (({ opened with ss := .push } : State).ss = .push ∧ ({ opened with ss := .push } : State).params.qdepthRes = none)
    ∧ ((bounded 1 0 4).qdepthRes = some 1 ∧ 1 ≤ (⟨[], 0, 1⟩ : Fifo Byte).items.length + (⟨[], 0, 1⟩ : Fifo Byte).freed)
    ∧ (({ syncing with ss := .wait } : State).ss = .wait ∧ syncing.reqq.items = ⟨1, 0⟩ :: [⟨2, 0⟩] ∧ 0 < syncing.reqq.vis
      ∧ syncing.params.qdepthReq = some 4)
    ∧ (syncing.params.qdepthRes = some 4 ∧ syncing.resq.items.length + syncing.resq.freed < 4)
    ∧ ({ opened with ss := .settle } : State).ss = .settle
    ∧ (State.reset.ss = .stopped ∨ State.reset.ss = .exited) := by decide

/-- SWITCHER at its top, the line answering the SETPORT. -/
def served : State := { serving ⟨3, 40⟩ (quadActs ⟨0xFC, 0, 2, 0xFE⟩ ++ [.silence]) with csumVerify := true }

theorem witness_SwIterServes :
    served.ss = .top ∧ served.intrSw = false ∧ served.reqq.items = ⟨3, 40⟩ :: [] ∧ 0 < served.reqq.vis
    ∧ served.params.qdepthReq = none ∧ served.params.qdepthRes = none ∧ served.xs = .idle ∧ served.ps = .idle
    ∧ served.cop = .none ∧ served.isOpen = true ∧ rxbUsable served ∧ checkPasses served ⟨0xFC, 0, 2, 0xFE⟩
    ∧ served.lineIn = quadActs ⟨0xFC, 0, 2, 0xFE⟩ ++ [.silence]
    ∧ (⟨3, 0, 3, 0⟩ : Quad) = requestQuad 3 served.params.cardId 3 := by decide

/-- Two garbage chunks. -/
def garbage : List LineAct := quadActs ⟨1, 2, 3, 4⟩ ++ quadActs ⟨0xEF, 0, 0, 0⟩

theorem witness_SwIterLogsErrors :
    (serving ⟨1, 9⟩ [.silence]).ss = .top ∧ (serving ⟨1, 9⟩ [.silence]).intrSw = false
    ∧ (serving ⟨1, 9⟩ [.silence]).reqq.items = ⟨1, 9⟩ :: [] ∧ 0 < (serving ⟨1, 9⟩ [.silence]).reqq.vis
    ∧ (serving ⟨1, 9⟩ [.silence]).params.qdepthReq = none ∧ (serving ⟨1, 9⟩ [.silence]).xs = .idle
    ∧ (serving ⟨1, 9⟩ [.silence]).ps = .idle ∧ (serving ⟨1, 9⟩ [.silence]).cop = .none
    ∧ (⟨3, 0, 1, 2⟩ : Quad) = requestQuad 3 (serving ⟨1, 9⟩ [.silence]).params.cardId 1
    ∧ (serving ⟨1, 9⟩ [.silence]).isOpen = true ∧ (serving ⟨1, 9⟩ [.silence]).lineIn = .silence :: []
    ∧ ({ serving ⟨1, 9⟩ [.silence] with isOpen := false } : State).isOpen = false
    ∧ (rxbUsable (serving ⟨1, 9⟩ (quadActs ⟨0xFD, 0, 1, 0xFC⟩)) ∧ 0xF0 ≤ (0xFD : Byte).toNat ∧ (0xFD : Byte) ≠ 0xFC
      ∧ checkPasses (serving ⟨1, 9⟩ (quadActs ⟨0xFD, 0, 1, 0xFC⟩)) ⟨0xFD, 0, 1, 0xFC⟩
      ∧ (serving ⟨1, 9⟩ (quadActs ⟨0xFD, 0, 1, 0xFC⟩)).lineIn = quadActs ⟨0xFD, 0, 1, 0xFC⟩ ++ [])
    ∧ (({ serving ⟨1, 9⟩ (quadActs ⟨0xFC, 0, 1, 0⟩) with csumVerify := true } : State).csumVerify = true
      ∧ (0 : Byte) ≠ 0xFC ^^^ 0 ^^^ 1)
    ∧ (({ serving ⟨1, 9⟩ garbage with maxDiscard := some 1 } : State).maxDiscard = some [(⟨1, 2, 3, 4⟩ : Quad)].length
      ∧ (∀ g ∈ [(⟨1, 2, 3, 4⟩ : Quad)], g.b0.toNat < 0xF0) ∧ (0xEF : Byte).toNat < 0xF0
      ∧ ({ serving ⟨1, 9⟩ garbage with maxDiscard := some 1 } : State).lineIn
        = [(⟨1, 2, 3, 4⟩ : Quad)].flatMap quadActs ++ quadActs ⟨0xEF, 0, 0, 0⟩ ++ []) := by decide

/-- Four of the failing iterations: a closed transport, E_PROTO, E_CSUM, E_DESYNC (R244). -/
theorem test_sw_iter_errors :
    nextIs (exec .swIter { serving ⟨1, 9⟩ [] with isOpen := false }) (fun t =>
      t.errlog == [errConnClosed] && t.txf == ⟨3, 0, 1, 2⟩ && t.ev == [.pop (.reqq ⟨1, 9⟩), .err errConnClosed]) = true
    ∧ nextIs (exec .swIter (serving ⟨1, 9⟩ (quadActs ⟨0xFD, 0, 1, 0xFC⟩))) (fun t =>
      t.errlog == [{ cause := .proto, info := 0xFCFD }] && t.ss == .top && t.resq.items == []) = true
    ∧ nextIs (exec .swIter { serving ⟨1, 9⟩ (quadActs ⟨0xFC, 0, 1, 0⟩) with csumVerify := true }) (fun t =>
      t.errlog == [{ cause := .csum, info := 0xFD00 }] && t.ss == .top && t.resq.items == []) = true
    ∧ nextIs (exec .swIter { serving ⟨1, 9⟩ garbage with maxDiscard := some 1 }) (fun t =>
      t.errlog == [{ cause := .desync, info := 1 }] && t.ss == .top && t.resq.items == []) = true := by decide

/-- The schedule of a fair run: SWITCHER pops, fails on the closed transport and exits, DISPLAY delivers and exits, and
then nothing is left to do (R242, R250). -/
def fairSchedule (k : Nat) : Machine.Action :=
  .agent (match k with
    | 0 => .switcher
    | 1 => .switcher
    | 2 => .switcher
    | 3 => .display
    | 4 => .display
    | _ => .own)

/-- Both workers wait with an entry visible, the interrupt sampled, the transport closed. -/
def polling : State :=
  { State.reset with
    intr := true, intrSw := true, intrDp := true, ss := .wait, ds := .wait, reqq := ⟨[⟨3, 40⟩], 1, 0⟩
    resq := ⟨[5], 1, 0⟩ }

/-- The states of that run. -/
def fairStates (k : Nat) : State :=
  match k with
  | 0 => polling
  | j + 1 =>
    match step (offer (fairSchedule j) (fairStates j)) with
    | .next t => t
    | .fault _ => fairStates j
    | .refused _ => fairStates j

/-- The run comes to rest after five steps. -/
theorem fairStates_rest (k : Nat) : fairStates (k + 5) = fairStates 5 := by
  induction k with
  | zero => rfl
  | succ k ih =>
    show (match step (offer (.agent .own) (fairStates (k + 5))) with
      | .next t => t
      | .fault _ => fairStates (k + 5)
      | .refused _ => fairStates (k + 5)) = fairStates 5
    rw [ih]
    decide

/-- `SyncW` on an empty FIFO makes no move. -/
theorem syncW_empty {α : Type} (n : Nat) (q : Fifo α) (hi : q.items = []) (hv : q.vis = 0) : fifoSyncW n q = q := by
  unfold fifoSyncW
  rw [hi, hv]
  exact if_neg (fun h => Nat.not_lt.mpr h.2 h.1)

/-- In the state at rest no step of the machine's own or of the environment's moves anything. -/
theorem fairStates_quiet (a : AgentStep) (h : isFromOutside a = false) :
    agentStep a (fairStates 5) = .next (fairStates 5) := by
  cases a with
  | arrive b => rfl
  | syncReqW n =>
    exact congrArg (fun q => Host.Outcome.next { fairStates 5 with reqq := q })
      (syncW_empty n (fairStates 5).reqq rfl rfl)
  | syncReqR m => rfl
  | syncResW n =>
    exact congrArg (fun q => Host.Outcome.next { fairStates 5 with resq := q })
      (syncW_empty n (fairStates 5).resq rfl rfl)
  | syncResR m => rfl
  | sampleIntr w => cases w <;> rfl
  | own => rfl
  | switcher => rfl
  | display => rfl
  | frontEnd => rfl
  | readTimeout => rfl
  | pollSw => rfl
  | pollDp => rfl
  | issue r => cases h
  | driveIntr l => cases h
  | driveLineOk l => cases h
  | writeCsumVerify v => cases h
  | writeMaxDiscard v => cases h
  | readReg r => cases h
  | reset => cases h

/-- The run meets the hypotheses of the clauses of SwIterIdlesAndExits and DpIterOutcomes that a visible entry is popped in
the end. -/
theorem witness_fair_run :
    IsRun fairSchedule fairStates ∧ Fair fairSchedule fairStates
    ∧ (∀ k, ∃ a, fairSchedule k = .agent a ∧ a ≠ .reset)
    ∧ ((fairStates 0).ss = .wait ∧ 0 < (fairStates 0).reqq.vis ∧ (fairStates 0).reqq.items = ⟨3, 40⟩ :: [])
    ∧ ((fairStates 0).ds = .wait ∧ 0 < (fairStates 0).resq.vis ∧ (fairStates 0).resq.items = 5 :: []) := by
  have late : ∀ n, fairStates (n + 5) = fairStates 5 := fairStates_rest
  refine ⟨?_, ⟨?_, ?_, ?_⟩, ?_, by decide, by decide⟩
  · intro k
    match k with
    | 0 => rfl
    | 1 => rfl
    | 2 => rfl
    | 3 => rfl
    | 4 => rfl
    | k + 5 =>
      show step (offer (.agent .own) (fairStates (k + 5))) = .next (fairStates (k + 6))
      rw [late k, show k + 6 = (k + 1) + 5 by omega, late (k + 1)]
      rfl
  · intro a ha n h
    obtain ⟨t, h1, h2⟩ := h (n + 5) (by omega)
    rw [late n, fairStates_quiet a ha] at h1
    cases h1
    exact absurd (late n).symm h2
  · intro n h
    obtain ⟨k, hk, h1, -⟩ := h (n + 5) (by omega)
    rw [show k = (k - 5) + 5 by omega, late] at h1
    exact absurd h1 (by decide)
  · intro n h
    obtain ⟨k, hk, h1, -⟩ := h (n + 5) (by omega)
    rw [show k = (k - 5) + 5 by omega, late] at h1
    exact absurd h1 (by decide)
  · intro k
    match k with
    | 0 => exact ⟨_, rfl, by decide⟩
    | 1 => exact ⟨_, rfl, by decide⟩
    | 2 => exact ⟨_, rfl, by decide⟩
    | 3 => exact ⟨_, rfl, by decide⟩
    | 4 => exact ⟨_, rfl, by decide⟩
    | k + 5 => exact ⟨.own, rfl, by decide⟩

theorem witness_SwIterIdlesAndExits :
    (({ opened with ss := .top } : State).ss = .top ∧ ({ opened with ss := .top } : State).intrSw = false
      ∧ ({ opened with ss := .top } : State).reqq.vis = 0)
    ∧ (({ opened with ss := .top, intrSw := true } : State).ss = .top
      ∧ ({ opened with ss := .top, intrSw := true } : State).intrSw = true)
    ∧ (({ opened with ss := .exited } : State).ss = .stopped ∨ ({ opened with ss := .exited } : State).ss = .exited) := by
  decide

/-- DISPLAY at its top with two confirmations, one of them visible. -/
def delivering : State := { State.reset with ds := .top, resq := ⟨[2, 3], 1, 0⟩ }

theorem witness_DpIterOutcomes :
    (delivering.ds = .top ∧ delivering.intrDp = false ∧ delivering.resq.items = 2 :: [3] ∧ 0 < delivering.resq.vis
      ∧ delivering.params.qdepthRes = none)
    ∧ ({ delivering with params := bounded 1 1 4 } : State).params.qdepthRes = some 2
    ∧ (({ State.reset with ds := .top } : State).ds = .top ∧ ({ State.reset with ds := .top } : State).intrDp = false
      ∧ ({ State.reset with ds := .top } : State).resq.vis = 0)
    ∧ ({ delivering with intrDp := true } : State).intrDp = true
    ∧ (State.reset.ds = .stopped ∨ State.reset.ds = .exited)
    ∧ (({ delivering with ds := .wait } : State).ds = .wait
      ∧ delivering.resq.freed = (match delivering.params.qdepthRes with
        | none => delivering.resq.freed
        | some _ => delivering.resq.freed + 1)) := by decide

/-- INTR comes to the two workers by the steps of SYNC only, each to its own sample (R284, log 9). -/
theorem test_interrupt :
    nextIs (agentStep (.driveIntr true) opened) (fun t => t == { opened with intr := true }) = true
    ∧ nextIs (agentStep (.sampleIntr .sw) { opened with intr := true }) (fun t => t.intrSw && !t.intrDp) = true
    ∧ nextIs (agentStep (.sampleIntr .dp) { opened with intr := true }) (fun t => t.intrDp && !t.intrSw) = true := by
  decide

theorem witness_StepRunsInstruction :
    ({ opened with agenda := [.frame [0x03, 0x00, 0x01, 0x02]] } : State).agenda = .frame [0x03, 0x00, 0x01, 0x02] :: []
    ∧ decode [0x03, 0x00, 0x01, 0x02] = .ok (.setport 0x00 0x01 0x02)
    ∧ ({ opened with agenda := [.op .shutdown] } : State).agenda = .op .shutdown :: []
    ∧ ({ opened with agenda := [.agent .own] } : State).agenda = .agent .own :: []
    ∧ opened.agenda = []
    ∧ ({ opened with agenda := [.frame [1, 2, 3]] } : State).agenda = .frame [1, 2, 3] :: []
    ∧ ([1, 2, 3] : List Byte).length ≠ 4 := by decide

theorem witness_ResetValues :
    Params.defaults.curReset = none ∧ ({ Params.defaults with curReset := some 0x10 } : Params).curReset = some 0x10 := by
  decide

theorem witness_ResetIsQuiet :
    AgentStep.syncResR 0 ∈ [AgentStep.own, .switcher, .display, .frontEnd, .arrive 0x55, .readTimeout, .pollSw, .pollDp,
      .syncReqW 0, .syncReqR 0, .syncResW 0, .syncResR 0] := by decide

theorem witness_DecoderIsTotal : ([1, 2, 3] : List Byte).length ≠ 4 := by decide

theorem witness_DecodeEncodeAgree :
    encode (.rsvdMid80BF 63 1 2 3) = some [0xBF, 1, 2, 3] ∧ decode [0xBF, 1, 2, 3] = .ok (.rsvdMid80BF 63 1 2 3) := by decide

theorem witness_RequestWellFormed :
    encode (.toggle 0 0xFF 0xF7) = some [8, 0, 0xFF, 0xF7] ∧ (8 : Byte).toNat ≤ 8
    ∧ (0xF7 : Byte) = 8 ^^^ 0 ^^^ 0xFF := by decide

/-- SWITCHER waits, one request of two is visible, a confirmation has been notified and an error logged; the schedule
steps SWITCHER. -/
def running : State :=
  { opened with
    ss := .wait, ds := .wait, cur := 5, curv := true, reqq := ⟨[⟨3, 40⟩, ⟨1, 0⟩], 1, 0⟩, errlog := [errConnTrunc 0]
    ev := [.push (.resq 5), .pop (.resq 5), .notify 5, .err (errConnTrunc 0), .push (.reqq ⟨3, 40⟩), .push (.reqq ⟨1, 0⟩)]
    agenda := [.agent .switcher] }

theorem witness_MachineInvKept :
    MachineInv running ∧ nextIs (step running) (fun t => t.ss == .exch && t.lreq == ⟨3, 40⟩) = true := by
  refine ⟨⟨?_, ?_⟩, by decide⟩
  · constructor <;> simp [running, opened, State.reset, State.resetWith, Params.defaults, hasRoom, isBetween, isClientOp]
  · constructor <;>
      simp [running, opened, State.reset, State.resetWith, Params.defaults, fifoLegal, Params.qdepthReq,
        Params.qdepthRes, Depth.slots, Fifo.empty, delaysFit]

theorem witness_HistoryInvKept :
    HistoryInv running ∧ nextIs (step running) (fun t => t.ev.getLast? == some (.pop (.reqq ⟨3, 40⟩))) = true := by
  refine ⟨?_, by decide⟩
  constructor <;>
    simp [running, opened, State.reset, State.resetWith, pushedReq, poppedReq, pushedRes, poppedRes, notified,
      loggedErrors, Fifo.empty]

theorem witness_WhoWritesCurAndOpen :
    Instr.startSw ≠ .dpIter ∧ Instr.startSw ≠ .connect ∧ Instr.startSw ≠ .shutdown
    ∧ nextIs (exec .startSw opened) (fun t => t.isOpen) = true
    ∧ AgentStep.switcher ≠ .display ∧ AgentStep.switcher ≠ .reset
    ∧ nextIs (agentStep .switcher running) (fun t => t.cur == 5) = true := by decide

theorem witness_LogsOnlyGrow :
    nextIs (step running) (fun t => t.errlog == [errConnTrunc 0]) = true
    ∧ ∀ rest, running.agenda ≠ .agent .reset :: rest := by
  refine ⟨by decide, fun rest h => ?_⟩
  cases h

theorem witness_WholeOperationIsItsSteps :
    nextIs (runRequest (.query 0) (answering ⟨0xFD, 0, 5, 0xF8⟩)) (fun t => t.xs == .idle) = true
    ∧ nextIs (runRequest (.query 0) (answering ⟨0xFD, 0, 5, 0xF8⟩)) (fun t =>
      runAgents [.issue (.query 0), .own, .own, .arrive 0xFD, .own, .arrive 0, .own, .arrive 5, .own, .arrive 0xF8, .own,
        .own] (answering ⟨0xFD, 0, 5, 0xF8⟩)
      == some { t with lineIn := (answering ⟨0xFD, 0, 5, 0xF8⟩).lineIn }) = true := by decide

theorem witness_GrayPointers :
    1 ≤ 2 ∧ ({ asyncReset 2 (0 : Byte) with wq2rgray := gray 1, wbin := 5 } : AsyncFifo 2 Byte).wq2rgray = gray 1
    ∧ asyncFull ({ asyncReset 2 (0 : Byte) with wq2rgray := gray 1, wbin := 5 } : AsyncFifo 2 Byte) = true := by decide

/-- The hypotheses with HOST as the owner and with SWITCHER, on a receive buffer of one byte. -/
theorem witness_EndlessResyncIsARun :
    hostHolds reading = true ∧ ({ reading with ss := .exch, cop := .setall } : State).ss = .exch
    ∧ reading.xs = .read ∧ reading.cn = 0 ∧ reading.rxb = [] ∧ reading.isOpen = true
    ∧ rxbUsable { reading with params := bounded 1 1 1 } ∧ reading.maxDiscard = none := by decide

end Sys2Proof.Tests
end

namespace Sys2Proof.Machine

/-! ## Accesses to the control registers (R25, R290, R67): one equation per outcome -/

theorem agentStep_writeCsumVerify (v : Bool) (s : State) :
    agentStep (.writeCsumVerify v) s = writeControl (fun t => { t with csumVerify := v }) s := rfl

theorem agentStep_writeMaxDiscard (m : Option Nat) (s : State) :
    agentStep (.writeMaxDiscard m) s = writeControl (fun t => { t with maxDiscard := m }) s := rfl

theorem writeControl_ready (f : State → State) {s : State} (hh : hostHolds s = true) (hx : s.xs = .idle) :
    writeControl f s = .next { f s with regPort := .ok .unit } := by
  simp [writeControl, regAnswer, hh, hx]

theorem writeControl_busy (f : State → State) {s : State} (hh : hostHolds s = true) (hx : s.xs ≠ .idle) :
    writeControl f s = .refused .busy := by
  simp [writeControl, hh, hx]

theorem writeControl_notHolder (f : State → State) {s : State} (hh : hostHolds s = false) :
    writeControl f s = .refused .notHolder := by
  simp [writeControl, hh]

theorem readControl_ready {r : ControlReg} {s : State} (hh : r = .status ∨ hostHolds s = true)
    (hx : needsIdle r = true → s.xs = .idle) :
    readControl r s = .next { afterRead r s with regPort := .ok (regValue r s) } := by
  unfold readControl regAnswer
  rw [if_neg (by rcases hh with h | h <;> simp [h]), if_neg (by simpa using hx)]

theorem readControl_busy {r : ControlReg} {s : State} (hh : hostHolds s = true) (hn : needsIdle r = true)
    (hx : s.xs ≠ .idle) : readControl r s = .refused .busy := by
  simp [readControl, hh, hn, hx]

theorem readControl_notHolder {r : ControlReg} {s : State} (hr : r ≠ .status) (hh : hostHolds s = false) :
    readControl r s = .refused .notHolder := by
  simp [readControl, hr, hh]

/-- A read of a register that holds a value changes nothing but the answer (R67). -/
theorem readControl_written {r : ControlReg} {s : State} (hh : r = .status ∨ hostHolds s = true)
    (hx : needsIdle r = true → s.xs = .idle) (hd : drawsValue r s = false) :
    readControl r s = .next { s with regPort := .ok (regValue r s) } := by
  rw [readControl_ready hh hx, afterRead, hd]
  rfl

/-- A read of a register that nothing has written also counts the free value it shows (U9, log 7). -/
theorem readControl_unwritten {r : ControlReg} {s : State} (hh : hostHolds s = true) (hn : needsIdle r = false)
    (hd : drawsValue r s = true) :
    readControl r s = .next { s with regPort := .ok (regValue r s), drawn := s.drawn + 1 } := by
  rw [readControl_ready (.inr hh) (by simp [hn]), afterRead, hd]
  rfl

/-- Settles O31: the access is one of `writeControl` and `readControl`, and each has one equation per outcome. -/
theorem controlRegisterWrites : Obligations.ControlRegisterWrites := by
  intro v m s
  rw [agentStep_writeCsumVerify, agentStep_writeMaxDiscard]
  refine ⟨fun hh hx => ?_, fun hh hx => ?_, fun hh => ?_, fun hh => ?_, ?_⟩
  · exact ⟨writeControl_ready _ hh hx, writeControl_ready _ hh hx,
      readControl_written (.inr hh) (fun _ => hx) rfl, readControl_written (.inr hh) (fun _ => hx) rfl⟩
  · exact ⟨writeControl_busy _ hh hx, writeControl_busy _ hh hx, readControl_busy hh rfl hx, readControl_busy hh rfl hx⟩
  · have written : ∀ r, needsIdle r = false → drawsValue r s = false →
        agentStep (.readReg r) s = .next { s with regPort := .ok (regValue r s) } :=
      fun r hn hd => readControl_written (.inr hh) (by simp [hn]) hd
    have unwritten : ∀ r, needsIdle r = false → drawsValue r s = true →
        agentStep (.readReg r) s = .next { s with regPort := .ok (regValue r s), drawn := s.drawn + 1 } :=
      fun r hn hd => readControl_unwritten hh hn hd
    refine ⟨fun hw => ?_, fun hw => ?_, fun hw => ?_, fun hw => ?_, written _ rfl rfl, written _ rfl rfl⟩
    · simpa [regValue, quadView, hw] using written .txf rfl (by simp [drawsValue, hw])
    · simpa [regValue, quadView, hw] using written .rxf rfl (by simp [drawsValue, hw])
    · simpa [regValue, quadView, hw] using unwritten .txf rfl (by simp [drawsValue, hw])
    · simpa [regValue, quadView, hw] using unwritten .rxf rfl (by simp [drawsValue, hw])
  · exact ⟨writeControl_notHolder _ hh, writeControl_notHolder _ hh, fun r hr => readControl_notHolder hr hh⟩
  · exact readControl_written (.inl rfl) (by simp [needsIdle]) rfl

/-! ## The reset state -/

/-- CUR and CURV after reset follow CUR_RESET (R40). -/
theorem resetWith_cur_of_some {p : Params} {b : Byte} (h : p.curReset = some b) :
    (State.resetWith p).cur = b ∧ (State.resetWith p).curv = true := by
  simp [State.resetWith, h]

theorem resetWith_curv_of_none {p : Params} (h : p.curReset = none) : (State.resetWith p).curv = false := by
  simp [State.resetWith, h]

/-- Settles O46: R40's values are the fields of `resetWith`. -/
theorem resetValues : Obligations.ResetValues := fun p =>
  ⟨State.resetWith p, rfl, rfl, rfl, rfl, rfl, rfl, rfl, rfl, rfl, rfl, rfl, rfl, rfl, rfl, rfl, rfl, rfl, rfl,
    resetWith_curv_of_none, fun _ => resetWith_cur_of_some, rfl, rfl, rfl, rfl, rfl, rfl⟩

/-- A capacity has room for nothing more when nothing is used. -/
theorem hasRoom_zero (depth : Option Nat) : hasRoom depth 0 0 = true := by
  cases depth <;> simp [hasRoom]

/-- R228 at reset. -/
theorem fifoLegal_empty {α : Type} (depth : Option Nat) : fifoLegal depth (Fifo.empty : Fifo α) := by
  cases depth <;> simp [fifoLegal, Fifo.empty]

theorem transportInv_resetWith (p : Params) : TransportInv (State.resetWith p) := by
  constructor <;> simp [State.resetWith, isBetween, isClientOp, hasRoom_zero]

theorem pipelineInv_resetWith (p : Params) : PipelineInv (State.resetWith p) where
  done_sw := by simp [State.resetWith]
  done_dp := by simp [State.resetWith]
  exch_op := by simp [State.resetWith]
  running_op := by simp [State.resetWith]
  reqq_legal := fifoLegal_empty _
  resq_legal := fifoLegal_empty _
  delays := by simp [delaysFit, State.resetWith, Fifo.empty]
  held := by simp [State.resetWith]

/-- The history of the reset state is empty, and so are its queues and its log. -/
theorem historyInv_resetWith (p : Params) : HistoryInv (State.resetWith p) where
  req := rfl
  res := rfl
  note := rfl
  log := rfl
  cur := by simp [State.resetWith, notified]

theorem machineInv_resetWith (p : Params) : MachineInv (State.resetWith p) :=
  ⟨transportInv_resetWith p, pipelineInv_resetWith p⟩

/-- Settles O52. -/
theorem invariantsAtReset : Obligations.InvariantsAtReset :=
  ⟨fun p => ⟨machineInv_resetWith p, historyInv_resetWith p⟩, rfl⟩

end Sys2Proof.Machine

namespace Sys2Proof.Machine

/-! ## What the operations of a step can do, said once each -/

@[simp] theorem hostHolds_iff {s : State} : hostHolds s = true ↔ s.ss = .stopped ∨ s.ss = .exited := by
  simp [hostHolds]

@[simp] theorem transportIdle_iff {s : State} : transportIdle s = true ↔ s.xs = .idle ∧ s.ps = .idle := by
  simp [transportIdle]

/-- The end of a chunk read: an error verdict, an accepted chunk with its verdict, or a discard below MAX_DISCARD
(R176 to R182). -/
theorem endChunk_cases (s : State) :
    (∃ e, endChunk s = verdict (.err e) (emit (.chunkDone (chunkBytes s.ch s.cn)) s))
    ∨ (∃ v, v ≠ .none ∧ endChunk s = verdict v (emit (.accept s.ch.b0 s.ch.b1 s.ch.b2 s.ch.b3)
        (writeRxf s.ch (emit (.chunkDone (chunkBytes s.ch s.cn)) s))))
    ∨ ((∀ m, s.maxDiscard = some m → s.disc ≠ m)
      ∧ endChunk s = { emit (.discard (chunkBytes s.ch s.cn)) (emit (.chunkDone (chunkBytes s.ch s.cn)) s) with
          disc := s.disc + 1, cn := 0 }) := by
  unfold endChunk evalChunk
  split
  · exact .inl ⟨_, rfl⟩
  · split
    · split
      · exact .inl ⟨_, rfl⟩
      · unfold acceptChunk
        dsimp only
        split
        · exact .inr (.inl ⟨.err _, nofun, rfl⟩)
        · exact .inr (.inl ⟨.ok, nofun, rfl⟩)
    · unfold garbageChunk
      split
      · rename_i hm
        exact .inr (.inr ⟨fun m hk => absurd (hm.symm.trans hk) nofun, rfl⟩)
      · rename_i m hm
        split
        · exact .inl ⟨_, rfl⟩
        · rename_i hd
          exact .inr (.inr ⟨fun k hk => by cases hm.symm.trans hk; exact hd, rfl⟩)

/-- Everything one step of SWITCHER can be (R240 to R247). -/
theorem swStep_cases {s t : State} (h : swStep s = some t) :
    (s.ss = .top ∧ t = swTop s)
    ∨ (∃ r, s.ss = .wait ∧ fifoHead s.reqq = some r ∧ t = { popReq r s with lreq := r, ss := .exch })
    ∨ (s.ss = .exch ∧ s.xs = .idle ∧ t = swStart s)
    ∨ (s.ss = .exch ∧ ownerStep s = some t)
    ∨ (s.ss = .push ∧ fifoRoom s.params.qdepthRes s.resq 1 = true ∧ t = { pushRes s.lres s with ss := .settle })
    ∨ (s.ss = .settle ∧ t = swSettle s) := by
  unfold swStep at h
  split at h
  case h_1 => cases h
  case h_2 hs => exact .inl ⟨hs, by simpa using h.symm⟩
  case h_3 hs =>
    unfold swPop at h
    split at h
    · rename_i r hr; exact .inr (.inl ⟨r, hs, hr, by simpa using h.symm⟩)
    · cases h
  case h_4 hs =>
    split at h
    · rename_i hn
      have hx : s.xs = .idle := by simp [swNotStarted] at hn; exact hn.1
      exact .inr (.inr (.inl ⟨hs, hx, by simpa using h.symm⟩))
    · exact .inr (.inr (.inr (.inl ⟨hs, h⟩)))
  case h_5 hs =>
    unfold swPush at h
    split at h
    · rename_i hr; exact .inr (.inr (.inr (.inr (.inl ⟨hs, hr, by simpa using h.symm⟩))))
    · cases h
  case h_6 hs => exact .inr (.inr (.inr (.inr (.inr ⟨hs, by simpa using h.symm⟩))))
  case h_7 => cases h

/-- Everything one step of DISPLAY can be (R249 to R251). -/
theorem dpStep_cases {s t : State} (h : dpStep s = some t) :
    (s.ds = .top ∧ t = dpTop s)
    ∨ (∃ v, s.ds = .wait ∧ fifoHead s.resq = some v
      ∧ t = emit (.notify v) { popRes v s with cur := v, curv := true, ds := .top }) := by
  unfold dpStep at h
  split at h
  case h_1 => cases h
  case h_2 hs => exact .inl ⟨hs, by simpa using h.symm⟩
  case h_3 hs =>
    unfold dpDeliver at h
    split at h
    · rename_i v hv; exact .inr ⟨v, hs, hv, by simpa using h.symm⟩
    · cases h
  case h_4 => cases h

/-- The pushes of a front-end request: the entries in order, and one event each (R229). -/
theorem pushAll_eq : ∀ (rs : List PendingRequest) (s : State), pushAll rs s =
    { s with reqq := { s.reqq with items := s.reqq.items ++ rs }, ev := s.ev ++ rs.map fun r => .push (.reqq r) } := by
  intro rs
  induction rs with
  | nil => intro s; simp [pushAll]
  | cons r rest ih => intro s; simp [pushAll, ih, pushReq, emit, fifoPush]

/-- A front-end request is pushed at once or held (R229, log 16). -/
theorem fePresent_cases (r : FeRequest) (s : State) :
    fePush r s = some (fePresent r s) ∨ fePresent r s = feHold r s := by
  unfold fePresent
  split
  · cases hp : fePush r s with
    | none => exact .inr rfl
    | some t => exact .inl rfl
  · exact .inr rfl

/-- The oldest held request is pushed and leaves, or nothing happens (R229). -/
theorem feRetry_cases (s : State) :
    feRetry s = s ∨ ∃ r rest t, s.feWait = r :: rest ∧ fePush r s = some t ∧ feRetry s = { t with feWait := rest } := by
  unfold feRetry
  split
  · exact .inl rfl
  · rename_i r rest hw
    split
    · rename_i t ht; exact .inr ⟨r, rest, t, hw, ht, rfl⟩
    · exact .inl rfl

/-- A card operand is in range, or the request ends with its error (R202). -/
theorem withCard_cases (card : Int) (k : Byte → State → State) (s : State) :
    (∃ e, withCard card k s = raise .control e s) ∨ ∃ a, withCard card k s = k a s := by
  unfold withCard
  split
  · exact .inr ⟨_, rfl⟩
  · exact .inl ⟨_, rfl⟩

/-- A channel index is in range, or the request ends with its error (R205, R206). -/
theorem withIndex_cases (index : Int) (k : Byte → State → State) (s : State) :
    (∃ e, withIndex index k s = raise .control e s) ∨ ∃ m, withIndex index k s = k m s := by
  unfold withIndex
  split
  · exact .inr ⟨_, rfl⟩
  · exact .inl ⟨_, rfl⟩

/-- The first step of a direct request: an operand error, raw COMMUNICATE's start, or the frame of a client
operation (R200, R171). -/
theorem startRequest_cases (r : ClientRequest) (s : State) :
    (∃ e, startRequest r s = raise .control e s) ∨ startRequest r s = startRaw s
    ∨ ∃ op c a d, isClientOp op = true ∧ isBetween op = false ∧ startRequest r s = sendFrame op c a d s := by
  have index : ∀ (i card : Int) (op : ClientOp) (c : Byte),
      (∃ e, withCard card (fun a => withIndex i (sendFrame op c a)) s = raise .control e s)
      ∨ ∃ a m, withCard card (fun a => withIndex i (sendFrame op c a)) s = sendFrame op c a m s := by
    intro i card op c
    rcases withCard_cases card (fun a => withIndex i (sendFrame op c a)) s with h | ⟨a, h⟩
    · exact .inl h
    · rcases withIndex_cases i (sendFrame op c a) s with ⟨e, h'⟩ | ⟨m, h'⟩
      · exact .inl ⟨e, h.trans h'⟩
      · exact .inr ⟨a, m, h.trans h'⟩
  cases r with
  | communicate => exact .inr (.inl rfl)
  | setall card v =>
    rcases withCard_cases card (fun a => sendSetall .setall a v) s with h | ⟨a, h⟩
    · exact .inl h
    · exact .inr (.inr ⟨.setall, 3, a, pack v, rfl, rfl, h⟩)
  | query card =>
    rcases withCard_cases card (fun a => sendFrame .query 2 a 0) s with h | ⟨a, h⟩
    · exact .inl h
    · exact .inr (.inr ⟨.query, 2, a, 0, rfl, rfl, h⟩)
  | enable card i =>
    rcases index i card .enable 6 with h | ⟨a, m, h⟩
    · exact .inl h
    · exact .inr (.inr ⟨.enable, 6, a, m, rfl, rfl, h⟩)
  | disable card i =>
    rcases index i card .disable 7 with h | ⟨a, m, h⟩
    · exact .inl h
    · exact .inr (.inr ⟨.disable, 7, a, m, rfl, rfl, h⟩)
  | pulse card =>
    rcases withCard_cases card (fun a => sendFrame (.pulseQuery a) 2 a 0) s with h | ⟨a, h⟩
    · exact .inl h
    · exact .inr (.inr ⟨.pulseQuery a, 2, a, 0, rfl, rfl, h⟩)

/-! ## The FIFOs stay legal (R228) -/

/-- Appending entries for which the producer sees room keeps a FIFO legal (R229). -/
theorem fifoLegal_append {α : Type} {depth : Option Nat} {q : Fifo α} {vs : List α} (h : fifoLegal depth q)
    (hr : fifoRoom depth q vs.length = true) : fifoLegal depth { q with items := q.items ++ vs } := by
  obtain ⟨hv, hf⟩ := h
  cases depth with
  | none => exact ⟨by simp; omega, hf⟩
  | some d =>
    have room : q.items.length + q.freed + vs.length ≤ d := of_decide_eq_true hr
    exact ⟨by simp; omega, by simp; omega⟩

theorem fifoLegal_push {α : Type} {depth : Option Nat} {q : Fifo α} (v : α) (h : fifoLegal depth q)
    (hr : fifoRoom depth q 1 = true) : fifoLegal depth (fifoPush q v) :=
  fifoLegal_append (vs := [v]) h hr

/-- A Pop of a visible entry keeps a FIFO legal (R230). -/
theorem fifoLegal_pop {α : Type} {depth : Option Nat} {q : Fifo α} {v : α} (h : fifoLegal depth q)
    (hv : fifoHead q = some v) : fifoLegal depth (fifoPop depth q) := by
  obtain ⟨hvis, rest, hi⟩ := fifoHead_some hv
  obtain ⟨hle, hf⟩ := h
  rw [hi, List.length_cons] at hle
  cases depth with
  | none => exact ⟨by simp [fifoPop, hi]; omega, by simpa [fifoPop] using hf⟩
  | some d =>
    simp only [hi, List.length_cons] at hf
    exact ⟨by simp [fifoPop, hi]; omega, by simp [fifoPop, hi]; omega⟩

theorem fifoLegal_syncW {α : Type} {depth : Option Nat} {q : Fifo α} (n : Nat) (h : fifoLegal depth q) :
    fifoLegal depth (fifoSyncW n q) := by
  unfold fifoSyncW
  split
  · rename_i hn; exact ⟨hn.2, h.2⟩
  · exact h

theorem fifoLegal_syncR {α : Type} {depth : Option Nat} {q : Fifo α} (m : Nat) (h : fifoLegal depth q) :
    fifoLegal depth (fifoSyncR depth m q) := by
  unfold fifoSyncR
  split
  · rename_i hm
    cases depth with
    | none => simp at hm
    | some d => exact ⟨h.1, by have := h.2; dsimp only at this ⊢; omega⟩
  · exact h

@[simp] theorem fifoSyncW_items {α : Type} (n : Nat) (q : Fifo α) : (fifoSyncW n q).items = q.items := by
  unfold fifoSyncW; split <;> rfl

@[simp] theorem fifoSyncR_items {α : Type} (depth : Option Nat) (m : Nat) (q : Fifo α) :
    (fifoSyncR depth m q).items = q.items := by
  unfold fifoSyncR; split <;> rfl

/-- The delays a front-end request pushes are those it was accepted with, or 0 (R226, R236). -/
theorem feEntries_fit {delayW : Nat} {r : FeRequest} (h : heldFits delayW r) (s : State) :
    ∀ p ∈ feEntries r s, p.settle < 2 ^ delayW := by
  have zero : 0 < 2 ^ delayW := Nat.two_pow_pos _
  cases r with
  | submit p => simpa [feEntries, heldFits] using h
  | batch action targets duration =>
    cases action with
    | activate => simp [feEntries, batchEntries]
    | deactivate => simp [feEntries, batchEntries]
    | pulse => simpa [feEntries, batchEntries, heldFits] using h

/-! ## The machine's invariant taken apart -/

/-- What is stored in the buffers is legal, whatever the sequencers do. -/
structure Buffers (s : State) : Prop where
  cn_le : s.cn ≤ 4
  txb_nil : s.txb = []
  rxb_fits : hasRoom s.params.rxbDepth s.rxb.length 0 = true
  closed_rxb : s.isOpen = false → s.rxb = []

/-- What holds in every state of XS but idle (R172 to R184). -/
structure Exchanging (s : State) : Prop where
  buffers : Buffers s
  isOpen : s.isOpen = true
  op : isBetween s.cop = false
  busy : s.ps = .busy ↔ isClientOp s.cop = true
  discarded : ∀ m, s.maxDiscard = some m → s.disc ≤ m
  sent : s.txfWritten = true

/-- XS is idle, and the operation in progress, if there is one, is about to end, to pause or to start an exchange. -/
structure AtRest (s : State) : Prop where
  buffers : Buffers s
  idle : s.xs = .idle
  pipeline : PipelineInv s

/-- SWITCHER, in state `ss`, may be the one whose operation `c` is in progress (R243, R290). -/
def HolderAgrees (ss : SState) (c : ClientOp) : Prop :=
  (ss = .exch → c = .none ∨ c = .setall) ∧ (ss = .top ∨ ss = .wait ∨ ss = .push ∨ ss = .settle → c = .none)

theorem holderAgrees_none (ss : SState) : HolderAgrees ss .none := ⟨fun _ => .inl rfl, fun _ => rfl⟩

theorem holderAgrees_of_hostHolds {ss : SState} (h : ss = .stopped ∨ ss = .exited) (c : ClientOp) :
    HolderAgrees ss c := by
  rcases h with rfl | rfl <;> simp [HolderAgrees]

/-- An operation SWITCHER never has is HOST's. -/
theorem HolderAgrees.hostHolds {ss : SState} {c : ClientOp} (h : HolderAgrees ss c) (hn : c ≠ .none)
    (hs : c ≠ .setall) : ss = .stopped ∨ ss = .exited := by
  cases ss <;> simp_all [HolderAgrees]

theorem PipelineInv.agrees {s : State} (h : PipelineInv s) : HolderAgrees s.ss s.cop := ⟨h.exch_op, h.running_op⟩

/-- Another operation in progress. -/
theorem PipelineInv.withOp {s : State} (h : PipelineInv s) {c : ClientOp} (hc : HolderAgrees s.ss c) :
    PipelineInv { s with cop := c } :=
  { h with exch_op := hc.1, running_op := hc.2 }

/-- A move of SWITCHER's that is not its exit. -/
theorem PipelineInv.withSs {s : State} (h : PipelineInv s) {x : SState} (hs : s.ss ≠ .exited) (hx : x ≠ .exited)
    (hc : s.cop = .none) : PipelineInv { s with ss := x } :=
  { h with
    done_sw := by simp [h.done_sw, hs, hx]
    exch_op := fun _ => .inl hc
    running_op := fun _ => hc }

/-- A move of DISPLAY's that is not its exit. -/
theorem PipelineInv.withDs {s : State} (h : PipelineInv s) {x : DState} (hs : s.ds ≠ .exited) (hx : x ≠ .exited) :
    PipelineInv { s with ds := x } :=
  { h with done_dp := by simp [h.done_dp, hs, hx] }

theorem TransportInv.buffers {s : State} (h : TransportInv s) : Buffers s :=
  { h with closed_rxb := fun ho => (h.closed ho).1 }

theorem TransportInv.exchanging {s : State} (h : TransportInv s) (hx : s.xs ≠ .idle) : Exchanging s where
  buffers := h.buffers
  isOpen := by
    cases ho : s.isOpen with
    | true => rfl
    | false => exact absurd (h.closed ho).2 hx
  op := by simpa [h.between] using hx
  busy := h.busy
  discarded := h.discarded hx
  sent := h.sent hx

/-- An exchange in progress satisfies the transport's invariant when its reader and its verdict do. -/
theorem Exchanging.transport {s : State} (h : Exchanging s) (hx : s.xs ≠ .idle) (hr : s.xs = .read → s.cn < 4)
    (hd : s.xs = .pace → s.xres ≠ .none) (ha : s.xs = .pace → s.xres = .ok → s.rxfWritten = true) : TransportInv s :=
  { h.buffers with
    reading := hr
    closed := fun ho => by simp [h.isOpen] at ho
    decided := hd
    between := by simp [hx, h.op]
    busy := h.busy
    discarded := fun _ => h.discarded
    sent := fun _ => h.sent
    received := ha }

/-- A transport between exchanges satisfies its invariant when the operation in progress agrees. -/
theorem Buffers.transport {s : State} (h : Buffers s) (hx : s.xs = .idle) (hb : isBetween s.cop = true)
    (hp : s.ps = .busy ↔ isClientOp s.cop = true) : TransportInv s :=
  { h with
    reading := by simp [hx]
    closed := fun ho => ⟨h.closed_rxb ho, hx⟩
    decided := by simp [hx]
    between := by simp [hx, hb]
    busy := hp
    discarded := fun hn => absurd hx hn
    sent := fun hn => absurd hx hn
    received := by simp [hx] }

theorem MachineInv.atRest {s : State} (h : MachineInv s) (hx : s.xs = .idle) : AtRest s :=
  ⟨h.transport.buffers, hx, h.pipeline⟩

/-- With the transport idle no operation is in progress. -/
theorem TransportInv.cop_none {s : State} (h : TransportInv s) (hi : transportIdle s = true) : s.cop = .none := by
  obtain ⟨hx, hp⟩ := transportIdle_iff.mp hi
  have hb := h.between.mp hx
  have hc := h.busy
  cases hcop : s.cop <;> simp_all [isBetween, isClientOp]

/-! ## The operation in progress ends, pauses or starts an exchange -/

section
variable {s : State}

theorem AtRest.inv (h : AtRest s) (hb : isBetween s.cop = true) (hp : s.ps = .busy ↔ isClientOp s.cop = true) :
    MachineInv s :=
  ⟨h.buffers.transport h.idle hb hp, h.pipeline⟩

theorem AtRest.endOp (h : AtRest s) : MachineInv (endOp s) :=
  AtRest.inv ⟨{ h.buffers with }, h.idle, { h.pipeline.withOp (holderAgrees_none _) with }⟩ rfl
    (by simp [Machine.endOp, isClientOp])

/-- An operation that ends with an error (R280, R244). -/
theorem AtRest.opFail (h : AtRest s) (e : Error) : MachineInv (opFail e s) := by
  have ended := h.endOp
  unfold Machine.opFail clientAsker
  split
  · rename_i hs
    have top := ended.pipeline.withSs (x := .top) (by simp [hs]) nofun rfl
    exact ⟨{ ended.transport with }, { top with }⟩
  · exact ⟨{ ended.transport with }, { ended.pipeline with }⟩

/-- An operation that ends with a result (R200, R243). -/
theorem AtRest.opDone (h : AtRest s) (v : PortValue) : MachineInv (opDone v s) := by
  have ended := h.endOp
  unfold Machine.opDone clientAsker
  split
  · rename_i hs
    have push := ended.pipeline.withSs (x := .push) (by simp [hs]) nofun rfl
    unfold complete
    dsimp only
    split
    · exact ⟨{ ended.transport with }, { push with }⟩
    · exact ⟨{ ended.transport with }, { push with }⟩
  · exact ⟨{ ended.transport with }, { ended.pipeline with }⟩

/-- PULSE comes to its set step, its hold or its clear step (R208). -/
theorem AtRest.pause (h : AtRest s) {c : ClientOp} (hb : isBetween c = true) (hc : isClientOp c = true)
    (hp : s.ps = .busy) (ha : HolderAgrees s.ss c) : MachineInv { s with cop := c } :=
  AtRest.inv ⟨{ h.buffers with }, h.idle, h.pipeline.withOp ha⟩ hb (by simp [hp, hc])

/-- The start step of an exchange (R172). -/
theorem AtRest.startExchange (h : AtRest s) {op : ClientOp} (hb : isBetween op = false)
    (hp : s.ps = .busy ↔ isClientOp op = true) (ha : HolderAgrees s.ss op)
    (hw : s.isOpen = true → s.txfWritten = true) : MachineInv (startExchange op s) := by
  unfold Machine.startExchange
  split
  · rename_i ho
    have started : Exchanging { s with disc := 0, xres := .none, xs := .flush, cop := op } :=
      { buffers := { h.buffers with }, isOpen := ho, op := hb, busy := hp, discarded := fun _ _ => Nat.zero_le _,
        sent := hw ho }
    have transport := started.transport nofun nofun nofun nofun
    have pipeline := h.pipeline.withOp ha
    unfold markBusy
    split
    · exact ⟨transport, { pipeline with }⟩
    · exact ⟨{ transport with }, { pipeline with }⟩
  · exact h.opFail _

/-- A client operation sends its frame (R200 (2), (3)). -/
theorem AtRest.sendFrame (h : AtRest s) {op : ClientOp} (hb : isBetween op = false) (hc : isClientOp op = true)
    (ha : HolderAgrees s.ss op) (c a d : Byte) : MachineInv (sendFrame op c a d s) := by
  have loaded : AtRest (loadTxf c a d { s with ps := .busy }) := ⟨{ h.buffers with }, h.idle, { h.pipeline with }⟩
  exact loaded.startExchange hb (by simp [hc]) ha (fun _ => rfl)

/-- After the exchange of a client operation (R200 (3) to (5)). -/
theorem AtRest.afterExchange (h : AtRest s) (hd : s.xres ≠ .none) (c : Byte) {k : State → State}
    (hk : MachineInv (k s)) : MachineInv (afterExchange c k s) := by
  rcases afterExchange_cases c k s with ⟨hn, -⟩ | ⟨e, he⟩ | he
  · exact absurd hn hd
  · rw [he]; exact h.opFail e
  · rw [he]; exact hk

/-- The operation that owned the exchange goes on (R184, R200, R208). -/
theorem AtRest.opReturn (h : AtRest s) (hd : s.xres ≠ .none) (ho : isBetween s.cop = false)
    (hp : s.ps = .busy ↔ isClientOp s.cop = true) : MachineInv (opReturn s) := by
  have agrees := h.pipeline.agrees
  have pause : ∀ c, s.cop ≠ .none → s.cop ≠ .setall → isClientOp s.cop = true → isBetween c = true →
      isClientOp c = true → MachineInv { s with cop := c } := fun c hn hs hc hb hcc =>
    h.pause hb hcc (hp.mpr hc) (holderAgrees_of_hostHolds (agrees.hostHolds hn hs) c)
  unfold Machine.opReturn
  split
  case h_1 hc | h_8 hc | h_10 hc | h_11 hc => simp [hc, isBetween] at ho
  case h_2 =>
    unfold afterRaw
    split
    · exact absurd ‹_› hd
    · exact h.opFail _
    · exact h.opDone _
  case h_3 | h_4 | h_5 | h_6 | h_12 => exact h.afterExchange hd _ (h.opDone _)
  case h_7 hc | h_9 hc =>
    exact h.afterExchange hd _ (pause _ (by simp [hc]) (by simp [hc]) (by simp [hc, isClientOp]) rfl rfl)

end

/-! ## Every part of a step keeps the invariant

Where a part leaves the fields that a clause reads as they were, `{ h with }` carries the clause over: the invariants of
the two states have the same clause up to unfolding. -/

section
variable {s : State}

/-- The end of a chunk read, whatever the number of its bytes (R176 to R182). -/
theorem Exchanging.endChunk (h : Exchanging s) (hp : PipelineInv s) (hx : s.xs = .read) :
    MachineInv (endChunk s) := by
  rcases endChunk_cases s with ⟨e, he⟩ | ⟨v, hv, he⟩ | ⟨hd, he⟩ <;> rw [he]
  · have failed : Exchanging (verdict (.err e) (emit (.chunkDone (chunkBytes s.ch s.cn)) s)) :=
      { h with buffers := { h.buffers with } }
    exact ⟨failed.transport nofun nofun (fun _ => nofun) (fun _ => nofun), { hp with }⟩
  · have accepted : Exchanging (verdict v (emit (.accept s.ch.b0 s.ch.b1 s.ch.b2 s.ch.b3)
        (writeRxf s.ch (emit (.chunkDone (chunkBytes s.ch s.cn)) s)))) :=
      { h with buffers := { h.buffers with } }
    exact ⟨accepted.transport nofun nofun (fun _ => hv) (fun _ _ => rfl), { hp with }⟩
  · have discarded : Exchanging { emit (.discard (chunkBytes s.ch s.cn))
        (emit (.chunkDone (chunkBytes s.ch s.cn)) s) with disc := s.disc + 1, cn := 0 } :=
      { h with
        buffers := { h.buffers with cn_le := Nat.zero_le 4 }
        discarded := fun m hm => Nat.lt_of_le_of_ne (h.discarded m hm) (hd m hm) }
    exact ⟨discarded.transport (by simp [hx]) (fun _ => Nat.zero_lt_succ 3) (by simp [hx]) (by simp [hx]), { hp with }⟩

theorem MachineInv.xFlush (h : MachineInv s) (hx : s.xs = .flush) : MachineInv (xFlush s) := by
  have ex := h.transport.exchanging (by simp [hx])
  have flushed : Exchanging (Machine.xFlush s) :=
    { ex with buffers := { ex.buffers with txb_nil := rfl, rxb_fits := hasRoom_zero _, closed_rxb := fun _ => rfl } }
  exact ⟨flushed.transport nofun nofun nofun nofun, { h.pipeline with }⟩

theorem MachineInv.xWrite (h : MachineInv s) (hx : s.xs = .write) : MachineInv (xWrite s) := by
  have ex := h.transport.exchanging (by simp [hx])
  have written : Exchanging (Machine.xWrite s) :=
    { ex with buffers := { ex.buffers with cn_le := Nat.zero_le 4, txb_nil := rfl } }
  exact ⟨written.transport nofun (fun _ => Nat.zero_lt_succ 3) nofun nofun, { h.pipeline with }⟩

theorem MachineInv.xTake (h : MachineInv s) (hx : s.xs = .read) {b : Byte} {rest : List Byte}
    (hr : s.rxb = b :: rest) : MachineInv (xTake b rest s) := by
  have ex := h.transport.exchanging (by simp [hx])
  have hc := h.transport.reading hx
  have fits : hasRoom s.params.rxbDepth rest.length 0 = true := by
    have := h.transport.rxb_fits
    cases hd : s.params.rxbDepth with
    | none => rfl
    | some d => simp [hasRoom, hd, hr] at this ⊢; omega
  have taken : Exchanging (takeByte b rest s) :=
    { ex with
      buffers := { ex.buffers with cn_le := hc, rxb_fits := fits, closed_rxb := by simp [ex.isOpen] } }
  have pipeline : PipelineInv (takeByte b rest s) := { h.pipeline with }
  unfold Machine.xTake
  dsimp only
  split
  · exact taken.endChunk pipeline hx
  · rename_i hn
    exact ⟨taken.transport (by simp [hx]) (fun _ => Nat.lt_of_le_of_ne hc hn) (by simp [hx]) (by simp [hx]), pipeline⟩

theorem MachineInv.xPace (h : MachineInv s) (hx : s.xs = .pace) : MachineInv (xPace s) := by
  have ex := h.transport.exchanging (by simp [hx])
  have rest : AtRest { emit (.wait .pace s.params.tPaceMs) s with xs := .idle } :=
    ⟨{ ex.buffers with }, rfl, { h.pipeline with }⟩
  exact rest.opReturn (h.transport.decided hx) ex.op ex.busy

/-- PULSE's set step and its clear step: the working vector is written and the next exchange starts (R208). -/
theorem MachineInv.pulseSend (h : MachineInv s) (hx : s.xs = .idle) (hn : s.cop ≠ .none) (hs : s.cop ≠ .setall)
    {op : ClientOp} (hb : isBetween op = false) (hc : isClientOp op = true) (pv c a d : Byte) :
    MachineInv (sendFrame op c a d { s with pv := pv }) := by
  have rest : AtRest { s with pv := pv } := ⟨{ h.transport.buffers with }, hx, { h.pipeline with }⟩
  exact rest.sendFrame hb hc (holderAgrees_of_hostHolds (h.pipeline.agrees.hostHolds hn hs) op) c a d

/-- PULSE's hold (R208). -/
theorem MachineInv.pulseHold (h : MachineInv s) (hx : s.xs = .idle) {card : Byte} (hc : s.cop = .pulseHold card) :
    MachineInv (pulseHoldStep card s) := by
  have holds := h.pipeline.agrees.hostHolds (by simp [hc]) (by simp [hc])
  have rest : AtRest (emit (.wait .pulseHold s.params.tPulseMs) s) :=
    ⟨{ h.transport.buffers with }, hx, { h.pipeline with }⟩
  exact rest.pause rfl rfl (h.transport.busy.mpr (by simp [hc, isClientOp])) (holderAgrees_of_hostHolds holds _)

/-- Every step of the owner keeps the invariant (R173 to R184, R188, R208). -/
theorem MachineInv.ownerStep {t : State} (h : MachineInv s) (ht : ownerStep s = some t) : MachineInv t := by
  rcases ownerStep_cases ht with ⟨hx, rfl⟩ | ⟨hx, rfl⟩ | ⟨b, rest, hx, hr, -, rfl⟩ | ⟨hx, rfl⟩ |
    ⟨card, hx, hc, rfl⟩ | ⟨card, hx, hc, rfl⟩ | ⟨card, hx, hc, rfl⟩
  · exact h.xFlush hx
  · exact h.xWrite hx
  · exact h.xTake hx hr
  · exact h.xPace hx
  · exact h.pulseSend hx (by simp [hc]) (by simp [hc]) rfl rfl _ _ _ _
  · exact h.pulseHold hx hc
  · exact h.pulseSend hx (by simp [hc]) (by simp [hc]) rfl rfl _ _ _ _

theorem MachineInv.rxArrive (h : MachineInv s) (b : Byte) : MachineInv (rxArrive b s) := by
  rcases rxArrive_cases b s with ⟨ho, hr, he⟩ | ⟨-, he⟩ <;> rw [he]
  · have fits : hasRoom s.params.rxbDepth (s.rxb ++ [b]).length 0 = true := by
      cases hd : s.params.rxbDepth <;> simp_all [hasRoom]
    exact ⟨{ h.transport with closed := by simp [ho], rxb_fits := fits }, { h.pipeline with }⟩
  · exact h

theorem MachineInv.readTimeout (h : MachineInv s) : MachineInv (readTimeout s) := by
  unfold Machine.readTimeout
  split
  · rename_i hx
    exact (h.transport.exchanging (by simp [hx.1])).endChunk h.pipeline hx.1
  · exact h

/-- The first step of a direct operation, HOST holding the idle transport (R200, R171). -/
theorem MachineInv.startRequest (h : MachineInv s) (hr : hostReady s) (r : ClientRequest) :
    MachineInv (startRequest r s) := by
  obtain ⟨hh, hi⟩ := hr
  obtain ⟨hx, hp⟩ := transportIdle_iff.mp hi
  have agrees := holderAgrees_of_hostHolds (hostHolds_iff.mp hh)
  have rest := h.atRest hx
  rcases startRequest_cases r s with ⟨e, he⟩ | he | ⟨op, c, a, d, hc, hb, he⟩ <;> rw [he]
  · exact ⟨{ h.transport with }, { h.pipeline with }⟩
  · unfold startRaw
    split
    · have taken : AtRest (takeRequest s) := ⟨{ rest.buffers with }, hx, { h.pipeline with }⟩
      exact taken.startExchange rfl (by simp [takeRequest, writeTxf, hp, isClientOp]) (agrees _) (fun _ => rfl)
    · rename_i ho
      exact rest.startExchange rfl (by simp [hp, isClientOp]) (agrees _) (fun h => absurd h ho)
  · exact rest.sendFrame hb hc (agrees op) c a d

/-- CONNECT's opening: the transport is idle and RXB is empty (R166). -/
theorem MachineInv.opened (h : MachineInv s) (hr : hostReady s) :
    MachineInv (emit .opened (flushLine { s with isOpen := true })) := by
  have hx := (transportIdle_iff.mp hr.2).1
  have buffers : Buffers (emit .opened (flushLine { s with isOpen := true })) :=
    { h.transport.buffers with txb_nil := rfl, rxb_fits := hasRoom_zero _, closed_rxb := fun _ => rfl }
  exact ⟨buffers.transport hx (h.transport.between.mp hx) h.transport.busy, { h.pipeline with }⟩

/-- SHUTDOWN's closing empties both buffers (R186). -/
theorem MachineInv.closeLine (h : MachineInv s) (hr : hostReady s) : MachineInv (closeLine s) := by
  have hx := (transportIdle_iff.mp hr.2).1
  have buffers : Buffers (Machine.closeLine s) :=
    { h.transport.buffers with txb_nil := rfl, rxb_fits := hasRoom_zero _, closed_rxb := fun _ => rfl }
  exact ⟨buffers.transport hx (h.transport.between.mp hx) h.transport.busy, { h.pipeline with }⟩

/-- ENCODE's write of TXF. -/
theorem MachineInv.writeTxf (h : MachineInv s) (q : Quad) : MachineInv (writeTxf q s) :=
  ⟨{ h.transport with sent := fun _ => rfl }, { h.pipeline with }⟩

/-- A move of SWITCHER's with no operation in progress. -/
theorem MachineInv.withSs (h : MachineInv s) {x : SState} (hs : s.ss ≠ .exited) (hx : x ≠ .exited)
    (hc : s.cop = .none) : MachineInv { s with ss := x } :=
  ⟨{ h.transport with }, h.pipeline.withSs hs hx hc⟩

theorem MachineInv.swTop (h : MachineInv s) (hs : s.ss = .top) : MachineInv (swTop s) := by
  have hc := h.pipeline.running_op (.inl hs)
  unfold Machine.swTop
  split
  · exact ⟨{ h.transport with },
      { h.pipeline with done_sw := by simp, exch_op := fun _ => .inl hc, running_op := fun _ => hc }⟩
  · exact h.withSs (by simp [hs]) nofun hc

/-- SWITCHER's Pop: the entry it takes has a delay that fits (R242, R226). -/
theorem MachineInv.swPop (h : MachineInv s) (hs : s.ss = .wait) {r : PendingRequest}
    (hr : fifoHead s.reqq = some r) : MachineInv { popReq r s with lreq := r, ss := .exch } := by
  obtain ⟨-, rest, hi⟩ := fifoHead_some hr
  obtain ⟨queued, -⟩ := h.pipeline.delays
  have popped : PipelineInv { popReq r s with lreq := r } :=
    { h.pipeline with
      reqq_legal := fifoLegal_pop h.pipeline.reqq_legal hr
      delays := ⟨fun p hp => queued p (List.mem_of_mem_tail hp), queued r (by simp [hi])⟩ }
  have moved := popped.withSs (x := .exch) (by simp [hs]) nofun (h.pipeline.running_op (.inr (.inl hs)))
  exact ⟨{ h.transport with }, moved⟩

theorem MachineInv.swPush (h : MachineInv s) (hs : s.ss = .push)
    (hr : fifoRoom s.params.qdepthRes s.resq 1 = true) : MachineInv { pushRes s.lres s with ss := .settle } := by
  have pushed : PipelineInv (pushRes s.lres s) :=
    { h.pipeline with resq_legal := fifoLegal_push _ h.pipeline.resq_legal hr }
  have moved := pushed.withSs (x := .settle) (by simp [hs]) nofun
    (h.pipeline.running_op (.inr (.inr (.inl hs))))
  exact ⟨{ h.transport with }, moved⟩

/-- Every step of SWITCHER keeps the invariant (R240 to R247). -/
theorem MachineInv.swStep {t : State} (h : MachineInv s) (ht : swStep s = some t) : MachineInv t := by
  rcases swStep_cases ht with ⟨hs, rfl⟩ | ⟨r, hs, hr, rfl⟩ | ⟨hs, hx, rfl⟩ | ⟨-, ho⟩ | ⟨hs, hr, rfl⟩ | ⟨hs, rfl⟩
  · exact h.swTop hs
  · exact h.swPop hs hr
  · exact (h.atRest hx).sendFrame rfl rfl ⟨fun _ => .inr rfl, by simp [hs]⟩ _ _ _
  · exact h.ownerStep ho
  · exact h.swPush hs hr
  · have waited : MachineInv (emit (.wait .settle s.lreq.settle) s) := ⟨{ h.transport with }, { h.pipeline with }⟩
    exact waited.withSs (by simp [hs]) nofun (h.pipeline.running_op (.inr (.inr (.inr hs))))

/-- SWITCHER's poll timeout (R241). -/
theorem MachineInv.swPoll (h : MachineInv s) : MachineInv (swPoll s) := by
  unfold Machine.swPoll
  split
  · rename_i hs
    exact h.withSs (by simp [hs]) nofun (h.pipeline.running_op (.inr (.inl hs)))
  · exact h

/-- Every step of DISPLAY keeps the invariant (R249 to R251). -/
theorem MachineInv.dpStep {t : State} (h : MachineInv s) (ht : dpStep s = some t) : MachineInv t := by
  rcases dpStep_cases ht with ⟨hs, rfl⟩ | ⟨v, hs, hv, rfl⟩
  · unfold dpTop
    split
    · exact ⟨{ h.transport with }, { h.pipeline with done_dp := by simp }⟩
    · exact ⟨{ h.transport with }, h.pipeline.withDs (by simp [hs]) nofun⟩
  · have popped : PipelineInv (popRes v s) :=
      { h.pipeline with resq_legal := fifoLegal_pop h.pipeline.resq_legal hv }
    have moved := popped.withDs (x := .top) (by simp [hs]) nofun
    exact ⟨{ h.transport with }, { moved with }⟩

/-- DISPLAY's poll timeout (R250). -/
theorem MachineInv.dpPoll (h : MachineInv s) : MachineInv (dpPoll s) := by
  unfold Machine.dpPoll
  split
  · rename_i hs
    exact ⟨{ h.transport with }, h.pipeline.withDs (by simp [hs]) nofun⟩
  · exact h

/-- The pushes of a front-end request that has room and whose delay fits (R229, R226). -/
theorem MachineInv.fePush {t : State} {r : FeRequest} (h : MachineInv s) (hr : heldFits s.params.delayW r)
    (ht : fePush r s = some t) : MachineInv t := by
  obtain ⟨room, rfl⟩ := fePush_some ht
  obtain ⟨queued, inHand⟩ := h.pipeline.delays
  rw [pushAll_eq]
  refine ⟨{ h.transport with }, { h.pipeline with reqq_legal := ?_, delays := ⟨fun p hp => ?_, inHand⟩ }⟩
  · exact fifoLegal_append h.pipeline.reqq_legal room
  · rcases List.mem_append.mp hp with hp | hp
    · exact queued p hp
    · exact feEntries_fit hr s p hp

theorem MachineInv.fePresent {r : FeRequest} (h : MachineInv s) (hr : heldFits s.params.delayW r) :
    MachineInv (fePresent r s) := by
  rcases fePresent_cases r s with hp | he
  · exact h.fePush hr hp
  · rw [he]
    refine ⟨{ h.transport with }, { h.pipeline with held := fun q hq => ?_ }⟩
    rcases List.mem_append.mp hq with hq | hq
    · exact h.pipeline.held q hq
    · exact List.mem_singleton.mp hq ▸ hr

theorem MachineInv.feRetry (h : MachineInv s) : MachineInv (feRetry s) := by
  rcases feRetry_cases s with he | ⟨r, rest, t, hw, hp, he⟩ <;> rw [he]
  · exact h
  · have kept := h.fePush (h.pipeline.held r (by simp [hw])) hp
    obtain ⟨-, rfl⟩ := fePush_some hp
    refine ⟨{ kept.transport with }, { kept.pipeline with held := fun q hq => kept.pipeline.held q ?_ }⟩
    rw [pushAll_eq]
    simp [complete, hw, hq]

/-- A SYNC step moves counts of a legal queue and none of its entries (R231). -/
theorem MachineInv.withReqq (h : MachineInv s) {q : Fifo PendingRequest} (hl : fifoLegal s.params.qdepthReq q)
    (hi : q.items = s.reqq.items) : MachineInv { s with reqq := q } :=
  ⟨{ h.transport with },
    { h.pipeline with reqq_legal := hl, delays := ⟨fun r hr => h.pipeline.delays.1 r (hi ▸ hr), h.pipeline.delays.2⟩ }⟩

theorem MachineInv.withResq (h : MachineInv s) {q : Fifo Byte} (hl : fifoLegal s.params.qdepthRes q) :
    MachineInv { s with resq := q } :=
  ⟨{ h.transport with }, { h.pipeline with resq_legal := hl }⟩

/-- START_SW: no operation is in progress on an idle transport (R239). -/
theorem MachineInv.startSw (h : MachineInv s) (hs : s.ss = .stopped) (hi : transportIdle s = true) :
    MachineInv { s with ss := .top } :=
  h.withSs (by simp [hs]) nofun (h.transport.cop_none hi)

end

/-- The invariant, part by part. -/
theorem machineInv_keptByParts : KeptByParts MachineInv where
  ports _ _ _ _ _ h := ⟨{ h.transport with }, { h.pipeline with }⟩
  inputs _ _ _ h := ⟨{ h.transport with }, { h.pipeline with }⟩
  own _ _ h ht := h.ownerStep ht
  arrive b _ h := h.rxArrive b
  timeout _ h := h.readTimeout
  start r _ hr h := h.startRequest hr r
  encode q _ _ h := h.writeTxf q
  opened _ hr _ h := h.opened hr
  closed _ hr _ h := h.closeLine hr
  startSw _ hs hi h := h.startSw hs hi
  startDp _ hs h := ⟨{ h.transport with }, h.pipeline.withDs (by simp [hs]) nofun⟩
  switcher _ _ h ht := h.swStep ht
  swPoll _ h := h.swPoll
  display _ _ h ht := h.dpStep ht
  dpPoll _ h := h.dpPoll
  present _ _ hr h := h.fePresent hr
  retry _ h := h.feRetry
  syncReqW n _ h := h.withReqq (fifoLegal_syncW n h.pipeline.reqq_legal) (fifoSyncW_items n _)
  syncReqR m _ h := h.withReqq (fifoLegal_syncR m h.pipeline.reqq_legal) (fifoSyncR_items _ m _)
  syncResW n _ h := h.withResq (fifoLegal_syncW n h.pipeline.resq_legal)
  syncResR m _ h := h.withResq (fifoLegal_syncR m h.pipeline.resq_legal)
  sampleSw _ h := ⟨{ h.transport with }, { h.pipeline with }⟩
  sampleDp _ h := ⟨{ h.transport with }, { h.pipeline with }⟩
  driveIntr _ _ h := ⟨{ h.transport with }, { h.pipeline with }⟩
  driveLineOk _ _ h := ⟨{ h.transport with }, { h.pipeline with }⟩
  draw _ h := ⟨{ h.transport with }, { h.pipeline with }⟩
  writeCsum _ _ _ h := ⟨{ h.transport with }, { h.pipeline with }⟩
  writeMax _ _ hx h := ⟨{ h.transport with discarded := fun hn => absurd hx hn }, { h.pipeline with }⟩
  reset s _ := ⟨{ transportInv_resetWith s.params with }, { pipelineInv_resetWith s.params with }⟩

/-- Settles O53: every part of a step keeps the invariant, so every step does. -/
theorem machineInvKept : Obligations.MachineInvKept := fun s t h ht => machineInv_keptByParts.step s t h ht

end Sys2Proof.Machine

namespace Sys2Proof.Machine

/-! ## The logs only grow (R26, R13) -/

/-- `t` comes after `s`: the parameters kept, and both logs extended. -/
structure Grows (s t : State) : Prop where
  params : t.params = s.params
  errlog : s.errlog <+: t.errlog
  ev : s.ev <+: t.ev

section
variable {s t u : State}

/-- A part that touches neither the parameters nor a log. -/
theorem Grows.of_eq (hp : t.params = s.params) (hl : t.errlog = s.errlog) (he : t.ev = s.ev) : Grows s t :=
  ⟨hp, by rw [hl], by rw [he]⟩

theorem Grows.refl (s : State) : Grows s s := .of_eq rfl rfl rfl

theorem Grows.trans (h : Grows s t) (h' : Grows t u) : Grows s u :=
  ⟨h'.params.trans h.params, h.errlog.trans h'.errlog, h.ev.trans h'.ev⟩

/-- What comes before: `trans` with its last part first, for a later state that fixes the one between. -/
theorem Grows.before (h' : Grows t u) (h : Grows s t) : Grows s u := h.trans h'

/-- A part that touches neither the parameters nor ERRLOG, and appends events. -/
theorem Grows.of_events (hp : t.params = s.params) (hl : t.errlog = s.errlog) {es : List Event}
    (he : t.ev = s.ev ++ es) : Grows s t :=
  ⟨hp, by rw [hl], es, he.symm⟩

theorem grows_opFail (e : Error) (s : State) : Grows s (opFail e s) := by
  unfold opFail clientAsker
  split
  · exact ⟨rfl, ⟨_, rfl⟩, ⟨_, rfl⟩⟩
  · exact .of_eq rfl rfl rfl

theorem grows_opDone (v : PortValue) (s : State) : Grows s (opDone v s) := by
  unfold opDone clientAsker
  split
  · unfold complete
    dsimp only
    split <;> exact .of_eq rfl rfl rfl
  · exact .of_eq rfl rfl rfl

theorem grows_startExchange (op : ClientOp) (s : State) : Grows s (startExchange op s) := by
  unfold startExchange
  split
  · unfold markBusy
    split <;> exact .of_eq rfl rfl rfl
  · exact grows_opFail _ _

theorem grows_sendFrame (op : ClientOp) (c a d : Byte) (s : State) : Grows s (sendFrame op c a d s) :=
  (grows_startExchange op (loadTxf c a d { s with ps := .busy })).before (.of_eq rfl rfl rfl)

theorem grows_afterExchange (c : Byte) {k : State → State} (hk : Grows s (k s)) : Grows s (afterExchange c k s) := by
  rcases afterExchange_cases c k s with ⟨-, he⟩ | ⟨e, he⟩ | he <;> rw [he]
  · exact .refl s
  · exact grows_opFail e s
  · exact hk

theorem grows_opReturn (s : State) : Grows s (opReturn s) := by
  unfold opReturn
  split
  case h_1 | h_8 | h_10 | h_11 => exact .refl s
  case h_2 =>
    unfold afterRaw
    split
    · exact .refl s
    · exact grows_opFail _ s
    · exact grows_opDone _ s
  case h_3 | h_4 | h_5 | h_6 | h_12 => exact grows_afterExchange _ (grows_opDone _ s)
  case h_7 | h_9 => exact grows_afterExchange _ (.of_eq rfl rfl rfl)

theorem grows_endChunk (s : State) : Grows s (endChunk s) := by
  rcases endChunk_cases s with ⟨e, he⟩ | ⟨v, -, he⟩ | ⟨-, he⟩ <;> rw [he]
  · exact .of_events rfl rfl rfl
  · exact .of_events rfl rfl (List.append_assoc _ _ _)
  · exact .of_events rfl rfl (List.append_assoc _ _ _)

theorem grows_xTake (b : Byte) (rest : List Byte) (s : State) : Grows s (xTake b rest s) := by
  have taken : Grows s (takeByte b rest s) := .of_events rfl rfl rfl
  unfold xTake
  dsimp only
  split
  · exact taken.trans (grows_endChunk _)
  · exact taken

theorem grows_xPace (s : State) : Grows s (xPace s) :=
  (grows_opReturn { emit (.wait .pace s.params.tPaceMs) s with xs := .idle }).before (.of_events rfl rfl rfl)

theorem grows_pulseSend (op : ClientOp) (pv c a d : Byte) (s : State) :
    Grows s (sendFrame op c a d { s with pv := pv }) :=
  (grows_sendFrame op c a d { s with pv := pv }).before (.of_eq rfl rfl rfl)

theorem grows_ownerStep (h : ownerStep s = some t) : Grows s t := by
  rcases ownerStep_cases h with ⟨-, rfl⟩ | ⟨-, rfl⟩ | ⟨b, rest, -, -, -, rfl⟩ | ⟨-, rfl⟩ | ⟨card, -, -, rfl⟩ |
    ⟨card, -, -, rfl⟩ | ⟨card, -, -, rfl⟩
  · exact .of_events rfl rfl rfl
  · exact .of_events rfl rfl rfl
  · exact grows_xTake b rest s
  · exact grows_xPace s
  · exact grows_pulseSend _ _ _ _ _ s
  · exact .of_events rfl rfl rfl
  · exact grows_pulseSend _ _ _ _ _ s

theorem grows_rxArrive (b : Byte) (s : State) : Grows s (rxArrive b s) := by
  rcases rxArrive_cases b s with ⟨-, -, he⟩ | ⟨-, he⟩ <;> rw [he]
  · exact .of_eq rfl rfl rfl
  · exact .refl s

theorem grows_readTimeout (s : State) : Grows s (readTimeout s) := by
  unfold readTimeout
  split
  · exact grows_endChunk s
  · exact .refl s

theorem grows_startRequest (r : ClientRequest) (s : State) : Grows s (startRequest r s) := by
  rcases startRequest_cases r s with ⟨e, he⟩ | he | ⟨op, c, a, d, -, -, he⟩ <;> rw [he]
  · exact .of_eq rfl rfl rfl
  · unfold startRaw
    split
    · exact (grows_startExchange .raw (takeRequest s)).before (.of_eq rfl rfl rfl)
    · exact grows_startExchange .raw s
  · exact grows_sendFrame op c a d s

theorem grows_swStep (h : swStep s = some t) : Grows s t := by
  rcases swStep_cases h with ⟨-, rfl⟩ | ⟨r, -, -, rfl⟩ | ⟨-, -, rfl⟩ | ⟨-, ho⟩ | ⟨-, -, rfl⟩ | ⟨-, rfl⟩
  · unfold swTop
    split
    · exact .of_events rfl rfl rfl
    · exact .of_eq rfl rfl rfl
  · exact .of_events rfl rfl rfl
  · exact grows_sendFrame _ _ _ _ s
  · exact grows_ownerStep ho
  · exact .of_events rfl rfl rfl
  · exact .of_events rfl rfl rfl

theorem grows_swPoll (s : State) : Grows s (swPoll s) := by
  unfold swPoll
  split
  · exact .of_eq rfl rfl rfl
  · exact .refl s

theorem grows_dpStep (h : dpStep s = some t) : Grows s t := by
  rcases dpStep_cases h with ⟨-, rfl⟩ | ⟨v, -, -, rfl⟩
  · unfold dpTop
    split
    · exact .of_events rfl rfl rfl
    · exact .of_eq rfl rfl rfl
  · exact .of_events rfl rfl (List.append_assoc _ _ _)

theorem grows_dpPoll (s : State) : Grows s (dpPoll s) := by
  unfold dpPoll
  split
  · exact .of_eq rfl rfl rfl
  · exact .refl s

theorem grows_fePush {r : FeRequest} (h : fePush r s = some t) : Grows s t := by
  obtain ⟨-, rfl⟩ := fePush_some h
  rw [pushAll_eq]
  exact .of_events rfl rfl rfl

theorem grows_fePresent (r : FeRequest) (s : State) : Grows s (fePresent r s) := by
  rcases fePresent_cases r s with hp | he
  · exact grows_fePush hp
  · rw [he]; exact .of_eq rfl rfl rfl

theorem grows_feRetry (s : State) : Grows s (feRetry s) := by
  rcases feRetry_cases s with he | ⟨r, rest, t, -, hp, he⟩ <;> rw [he]
  · exact .refl s
  · exact (grows_fePush hp).trans (.of_eq rfl rfl rfl)

/-! ### Whole operations -/

theorem answers_ite {P : State → Prop} {c : Prop} [Decidable c] {a b : Host.Outcome State Fault Refusal}
    (ha : answers P a) (hb : answers P b) : answers P (if c then a else b) := by
  split
  · exact ha
  · exact hb

/-- A guard that refuses answers no next state of its own. -/
theorem answers_unless {P : State → Prop} {c : Prop} [Decidable c] {r : Refusal}
    {o : Host.Outcome State Fault Refusal} (h : answers P o) : answers P (if c then .refused r else o) :=
  answers_ite answers_refused h

theorem Grows.drive (h : Grows s t) (acts : List LineAct) : Grows s (drive acts t) :=
  drive_keeps (P := Grows s) (fun _ _ hu ho => hu.trans (grows_ownerStep ho))
    (fun a u hu => by
      cases a with
      | arrive b => exact hu.trans (grows_rxArrive b u)
      | silence => exact hu.trans (grows_readTimeout u))
    (fun _ _ hu => hu.trans (.of_eq rfl rfl rfl)) acts t h

theorem grows_issueRequest (r : ClientRequest) (s : State) : answers (Grows s) (issueRequest r s) := by
  intro t ht
  obtain ⟨-, -, -, rfl⟩ := issueRequest_next ht
  exact grows_startRequest r s

theorem grows_runRequest (r : ClientRequest) (s : State) : answers (Grows s) (runRequest r s) := by
  intro t ht
  obtain ⟨u, hu, rfl⟩ := runRequest_next ht
  exact (grows_issueRequest r s u hu).drive _

theorem grows_requestFrame (c a d : Byte) (s : State) : answers (Grows s) (requestFrame c a d s) := by
  refine answers_unless (answers_unless fun t ht => ?_)
  exact (grows_runRequest _ (loadTxf c a d s) t ht).before (.of_eq rfl rfl rfl)

theorem grows_deliverFrame (b0 b1 b2 b3 : Byte) (s : State) : answers (Grows s) (deliverFrame b0 b1 b2 b3 s) := by
  have arrived : Grows s (rxArrive b3 (rxArrive b2 (rxArrive b1 (rxArrive b0 s)))) :=
    (((grows_rxArrive b0 s).trans (grows_rxArrive b1 _)).trans (grows_rxArrive b2 _)).trans (grows_rxArrive b3 _)
  refine answers_next ?_
  split
  · exact runOwner_keeps (P := Grows s) (fun _ _ hu ho => hu.trans (grows_ownerStep ho)) _ _ arrived
  · exact arrived

/-- A phase of SWITCHER's iteration grows the logs when its step does. -/
theorem Grows.swPhase (h : Grows s t) {at_ : SState} {f : State → State}
    (hf : t.ss = at_ → Grows t (f t)) : Grows s (swPhase at_ f t) := by
  unfold Machine.swPhase
  split
  · exact h.trans (hf ‹_›)
  · exact h

theorem Grows.dpPhase (h : Grows s t) {at_ : DState} {f : State → State}
    (hf : t.ds = at_ → Grows t (f t)) : Grows s (dpPhase at_ f t) := by
  unfold Machine.dpPhase
  split
  · exact h.trans (hf ‹_›)
  · exact h

/-- A step that is taken where it is enabled, and another move elsewhere. -/
theorem grows_getD {o : Option State} (ho : ∀ u, o = some u → Grows s u) (ht : Grows s t) : Grows s (o.getD t) := by
  cases o with
  | none => exact ht
  | some u => exact ho u rfl

theorem grows_swIteration (s : State) : Grows s (swIteration s) := by
  refine ((((Grows.refl s).swPhase ?top).swPhase ?wait).swPhase ?exch).swPhase ?push |>.swPhase ?settle
  case top => exact fun hs => grows_swStep (by simp [swStep, hs])
  case wait => exact fun hs => grows_getD (fun u hu => grows_swStep (by simp [swStep, hs, hu])) (grows_swPoll _)
  case exch =>
    intro hs
    refine Grows.drive ?_ _
    split
    · exact grows_sendFrame _ _ _ _ _
    · exact .refl _
  case push => exact fun hs => grows_getD (fun u hu => grows_swStep (by simp [swStep, hs, hu])) (.refl _)
  case settle => exact fun hs => grows_swStep (by simp [swStep, hs])

theorem grows_dpIteration (s : State) : Grows s (dpIteration s) := by
  refine ((Grows.refl s).dpPhase ?top).dpPhase ?wait
  case top => exact fun hs => grows_dpStep (by simp [dpStep, hs])
  case wait => exact fun hs => grows_getD (fun u hu => grows_dpStep (by simp [dpStep, hs, hu])) (grows_dpPoll _)

/-- Every instruction's meaning grows the logs: the frame rows send or deliver, the combinational operations touch a
port only, and the others are made of the parts above. -/
theorem grows_exec (i : Instr) (s : State) : answers (Grows s) (exec i s) := by
  have ports : ∀ hp cp fp, Grows s { s with hostPort := hp, codecPort := cp, fePort := fp } :=
    fun _ _ _ => .of_eq rfl rfl rfl
  cases i with
  | noop | setup | getport | setport | getoption | setoption | setsingle | delsingle | toggle =>
    exact grows_requestFrame _ _ _ s
  | rNoop | rSetup | rGetport | rSetport | rGetoption | rSetoption | rSetsingle | rDelsingle | rToggle
  | rsvdLow0909 | rsvdLow0A0B | rsvdLow0C0F | rsvdMid101F | rsvdMid203F | rsvdMid407F | rsvdMid80BF | rsvdMidC0DF
  | rsvdMidE0EF | rsvdHighF0F3 | rsvdHighF4F5 | rsvdHighF6F6 => exact grows_deliverFrame _ _ _ _ s
  | csum | decode | isresp | respcode | reqcode | pack => exact answers_next (ports _ _ _)
  | communicate | setall | query | enable | disable | pulse => exact grows_runRequest _ s
  | swIter => exact answers_next (grows_swIteration s)
  | dpIter => exact answers_next (grows_dpIteration s)
  | encode c a d =>
    refine answers_unless (answers_unless ?_)
    split
    · exact answers_next (ports _ _ _)
    · exact answers_next (.of_eq rfl rfl rfl)
  | label f =>
    show answers _ (execLabel f s)
    unfold execLabel
    split <;> exact answers_next (ports _ _ _)
  | unpack | mask1 => exact answers_ite (answers_next (ports _ _ _)) (answers_next (ports _ _ _))
  | connect =>
    exact answers_unless (answers_unless (answers_unless
      (answers_ite (answers_next (.of_events rfl rfl (List.append_assoc _ _ _))) (answers_next (ports _ _ _)))))
  | shutdown =>
    refine answers_unless (answers_unless (answers_next ?_))
    split
    · exact .of_events rfl rfl rfl
    · exact ports _ _ _
  | submit => exact answers_unless (answers_next (grows_fePresent _ s))
  | batch action targets duration =>
    refine answers_unless (answers_unless ?_)
    split
    · exact answers_next (ports _ _ _)
    · exact answers_next (grows_fePresent _ s)
  | startSw => exact answers_unless (answers_unless (answers_next (.of_eq rfl rfl rfl)))
  | startDp => exact answers_unless (answers_next (.of_eq rfl rfl rfl))

/-- Every atomic step of an agent but reset grows the logs. -/
theorem grows_agentStep {a : AgentStep} (ha : a ≠ .reset) (s : State) : answers (Grows s) (agentStep a s) := by
  cases a with
  | issue r => exact grows_issueRequest r s
  | own =>
    refine answers_next ?_
    unfold ownStep
    split
    · exact .refl s
    · exact grows_getD (fun _ => grows_ownerStep) (.refl s)
  | switcher => exact answers_next (grows_getD (fun _ => grows_swStep) (.refl s))
  | display => exact answers_next (grows_getD (fun _ => grows_dpStep) (.refl s))
  | frontEnd => exact answers_next (grows_feRetry s)
  | arrive b => exact answers_next (grows_rxArrive b s)
  | readTimeout => exact answers_next (grows_readTimeout s)
  | pollSw => exact answers_next (grows_swPoll s)
  | pollDp => exact answers_next (grows_dpPoll s)
  | syncReqW | syncReqR | syncResW | syncResR | driveIntr | driveLineOk =>
    exact answers_next (.of_eq rfl rfl rfl)
  | sampleIntr w => cases w <;> exact answers_next (.of_eq rfl rfl rfl)
  | writeCsumVerify v =>
    intro t ht
    obtain ⟨-, -, rfl⟩ := writeControl_next ((agentStep_writeCsumVerify v s).symm.trans ht)
    exact .of_eq rfl rfl rfl
  | writeMaxDiscard m =>
    intro t ht
    obtain ⟨-, -, rfl⟩ := writeControl_next ((agentStep_writeMaxDiscard m s).symm.trans ht)
    exact .of_eq rfl rfl rfl
  | readReg r =>
    intro t ht
    obtain ⟨-, -, rfl⟩ := readControl_next (r := r) ht
    exact .of_eq (afterRead_params r s) (afterRead_errlog r s) (afterRead_ev r s)
  | reset => exact absurd rfl ha

end

/-- What a step is: nothing, an instruction's meaning, or an agent's step, on the state without the schedule's next
entry (R315, log 1). -/
theorem step_cases {s t : State} (h : step s = .next t) :
    t = s ∨ (∃ i rest, exec i { s with agenda := rest } = .next t)
    ∨ ∃ a rest, s.agenda = .agent a :: rest ∧ agentStep a { s with agenda := rest } = .next t := by
  cases ha : s.agenda with
  | nil => exact .inl (by simpa [step, fetch, ha] using h.symm)
  | cons entry rest =>
    cases entry with
    | op i => exact .inr (.inl ⟨i, rest, by simpa [step, fetch, ha] using h⟩)
    | agent a => exact .inr (.inr ⟨a, rest, rfl, by simpa [step, fetch, ha] using h⟩)
    | frame bs =>
      cases hd : Sys2Proof.decode bs with
      | ok i => exact .inr (.inl ⟨i, rest, by simpa [step, fetch, ha, hd] using h⟩)
      | error e =>
        simp only [step, fetch, ha, hd] at h
        cases e <;> cases h

/-- Every step grows the logs, unless it is the reset input's, which keeps the parameters (R311). -/
theorem step_grows {s t : State} (h : step s = .next t) :
    Grows s t ∨ t.params = s.params ∧ ∃ rest, s.agenda = .agent .reset :: rest := by
  have taken : ∀ rest, Grows s { s with agenda := rest } := fun _ => .of_eq rfl rfl rfl
  rcases step_cases h with rfl | ⟨i, rest, hi⟩ | ⟨a, rest, ha, ht⟩
  · exact .inl (.refl t)
  · exact .inl ((taken rest).trans (grows_exec i _ t hi))
  · by_cases hr : a = .reset
    · subst hr
      cases ht
      exact .inr ⟨rfl, rest, ha⟩
    · exact .inl ((taken rest).trans (grows_agentStep hr _ t ht))

/-- Settles O56: every step but reset grows the logs, and reset keeps the parameters. -/
theorem logsOnlyGrow : Obligations.LogsOnlyGrow := by
  intro s t h
  rcases step_grows h with ⟨hp, ⟨l, hl⟩, ⟨es, he⟩⟩ | ⟨hp, rest, hr⟩
  · exact ⟨hp, fun _ => ⟨⟨l, hl.symm⟩, es, he.symm⟩⟩
  · exact ⟨hp, fun hn => absurd hr (hn rest)⟩

end Sys2Proof.Machine

namespace Sys2Proof.Machine

/-! ## The histories of the queues (R74, R232) -/

theorem pushedReq_append (xs ys : List Event) : pushedReq (xs ++ ys) = pushedReq xs ++ pushedReq ys :=
  List.filterMap_append

theorem poppedReq_append (xs ys : List Event) : poppedReq (xs ++ ys) = poppedReq xs ++ poppedReq ys :=
  List.filterMap_append

theorem pushedRes_append (xs ys : List Event) : pushedRes (xs ++ ys) = pushedRes xs ++ pushedRes ys :=
  List.filterMap_append

theorem poppedRes_append (xs ys : List Event) : poppedRes (xs ++ ys) = poppedRes xs ++ poppedRes ys :=
  List.filterMap_append

theorem notified_append (xs ys : List Event) : notified (xs ++ ys) = notified xs ++ notified ys :=
  List.filterMap_append

theorem loggedErrors_append (xs ys : List Event) : loggedErrors (xs ++ ys) = loggedErrors xs ++ loggedErrors ys :=
  List.filterMap_append

/-- The events `es` account for all that `t` has otherwise than `s` in the queues, ERRLOG and CUR. -/
structure Accounts (es : List Event) (s t : State) : Prop where
  ev : t.ev = s.ev ++ es
  /-- What REQQ held and was given is what left it and what it holds (R232). -/
  req : s.reqq.items ++ pushedReq es = poppedReq es ++ t.reqq.items
  /-- The same of RESQ. -/
  res : s.resq.items ++ pushedRes es = poppedRes es ++ t.resq.items
  note : notified es = poppedRes es
  log : s.errlog ++ loggedErrors es = t.errlog
  /-- CUR and CURV stay without a notification (R251). -/
  quiet : notified es = [] → t.cur = s.cur ∧ t.curv = s.curv
  cur : ∀ v, (notified es).getLast? = some v → t.cur = v ∧ t.curv = true

section
variable {s t : State}

/-- What the appended events account for keeps the invariant. -/
theorem HistoryInv.accounted (h : HistoryInv s) {es : List Event} (a : Accounts es s t) : HistoryInv t where
  req := by
    rw [a.ev, pushedReq_append, poppedReq_append, h.req, List.append_assoc, a.req, List.append_assoc]
  res := by
    rw [a.ev, pushedRes_append, poppedRes_append, h.res, List.append_assoc, a.res, List.append_assoc]
  note := by rw [a.ev, notified_append, poppedRes_append, h.note, a.note]
  log := by rw [a.ev, loggedErrors_append, h.log, a.log]
  cur := by
    intro v hv
    rw [a.ev, notified_append] at hv
    by_cases hn : notified es = []
    · obtain ⟨hcur, hcurv⟩ := a.quiet hn
      rw [hcur, hcurv]
      exact h.cur v (by simpa [hn] using hv)
    · exact a.cur v (by rwa [List.getLast?_append_of_ne_nil _ hn] at hv)

/-- The events no history counts: all but those of the queues, `Notify` and `Err`. -/
def isUncounted (e : Event) : Bool :=
  match e with
  | .tx .. | .rxTake _ | .chunkDone _ | .discard _ | .accept .. | .flush | .wait .. | .opened | .closed
  | .exited _ => true
  | .push _ | .pop _ | .notify _ | .err _ => false

/-- An event that no history counts. -/
theorem HistoryInv.emit (h : HistoryInv s) {e : Event} (he : isUncounted e = true) : HistoryInv (emit e s) := by
  refine h.accounted (es := [e]) ?_
  cases e with
  | push | pop | notify | err => simp [isUncounted] at he
  | tx | rxTake | chunkDone | discard | accept | flush | wait | opened | closed | exited =>
    exact ⟨rfl, List.append_nil _, List.append_nil _, rfl, List.append_nil _, fun _ => ⟨rfl, rfl⟩, nofun⟩

/-! ### The events that the histories count -/

theorem HistoryInv.pushReq (h : HistoryInv s) (r : PendingRequest) : HistoryInv (pushReq r s) :=
  h.accounted (es := [.push (.reqq r)])
    ⟨rfl, rfl, List.append_nil _, rfl, List.append_nil _, fun _ => ⟨rfl, rfl⟩, nofun⟩

theorem HistoryInv.pushRes (h : HistoryInv s) (v : Byte) : HistoryInv (pushRes v s) :=
  h.accounted (es := [.push (.resq v)])
    ⟨rfl, List.append_nil _, rfl, rfl, List.append_nil _, fun _ => ⟨rfl, rfl⟩, nofun⟩

/-- A Pop takes the oldest entry of the queue (R230). -/
theorem fifoHead_cons {α : Type} {q : Fifo α} {v : α} (h : fifoHead q = some v) (depth : Option Nat) :
    q.items = v :: (fifoPop depth q).items := by
  obtain ⟨-, rest, hi⟩ := fifoHead_some h
  simp [fifoPop, hi]

theorem HistoryInv.popReq (h : HistoryInv s) {r : PendingRequest} (hr : fifoHead s.reqq = some r) :
    HistoryInv (popReq r s) :=
  h.accounted (es := [.pop (.reqq r)])
    ⟨rfl, (List.append_nil _).trans (fifoHead_cons hr _), List.append_nil _, rfl, List.append_nil _,
      fun _ => ⟨rfl, rfl⟩, nofun⟩

/-- DISPLAY's delivery pops, writes CUR and notifies in one step (R251). -/
theorem HistoryInv.deliver (h : HistoryInv s) {v : Byte} (hv : fifoHead s.resq = some v) :
    HistoryInv (Machine.emit (.notify v) { popRes v s with cur := v, curv := true, ds := .top }) :=
  h.accounted (es := [.pop (.resq v), .notify v])
    { ev := List.append_assoc _ _ _
      req := List.append_nil _
      res := (List.append_nil _).trans (fifoHead_cons hv _)
      note := rfl
      log := List.append_nil _
      quiet := nofun
      cur := fun _ hw => ⟨Option.some.inj hw, rfl⟩ }

/-- Taking an error: SWITCHER's is logged with its event, any other goes to a port (R280). -/
theorem HistoryInv.raise (h : HistoryInv s) (who : Asker) (e : Error) : HistoryInv (raise who e s) := by
  cases who with
  | control | codec | frontEnd => exact { h with }
  | switcher =>
    exact h.accounted (es := [.err e])
      ⟨rfl, List.append_nil _, List.append_nil _, rfl, rfl, fun _ => ⟨rfl, rfl⟩, nofun⟩

theorem HistoryInv.complete (h : HistoryInv s) (who : Asker) (v : PortValue) : HistoryInv (complete who v s) := by
  cases who with
  | control | codec | frontEnd => exact { h with }
  | switcher => cases v <;> exact { h with }

/-! ### The exchange and the client operations -/

theorem HistoryInv.opFail (h : HistoryInv s) (e : Error) : HistoryInv (opFail e s) :=
  HistoryInv.raise (s := endOp s) { h with } _ e

theorem HistoryInv.opDone (h : HistoryInv s) (v : PortValue) : HistoryInv (opDone v s) :=
  HistoryInv.complete (s := endOp s) { h with } _ v

theorem HistoryInv.startExchange (h : HistoryInv s) (op : ClientOp) : HistoryInv (startExchange op s) := by
  unfold Machine.startExchange
  split
  · unfold markBusy
    split <;> exact { h with }
  · exact h.opFail _

theorem HistoryInv.sendFrame (h : HistoryInv s) (op : ClientOp) (c a d : Byte) : HistoryInv (sendFrame op c a d s) :=
  HistoryInv.startExchange (s := loadTxf c a d { s with ps := .busy }) { h with } op

theorem HistoryInv.afterExchange (h : HistoryInv s) (c : Byte) {k : State → State} (hk : HistoryInv (k s)) :
    HistoryInv (afterExchange c k s) := by
  rcases afterExchange_cases c k s with ⟨-, he⟩ | ⟨e, he⟩ | he <;> rw [he]
  · exact h
  · exact h.opFail e
  · exact hk

theorem HistoryInv.opReturn (h : HistoryInv s) : HistoryInv (opReturn s) := by
  unfold Machine.opReturn
  split
  case h_1 | h_8 | h_10 | h_11 => exact h
  case h_2 =>
    unfold afterRaw
    split
    · exact h
    · exact h.opFail _
    · exact h.opDone _
  case h_3 | h_4 | h_5 | h_6 | h_12 => exact h.afterExchange _ (h.opDone _)
  case h_7 | h_9 => exact h.afterExchange _ { h with }

theorem HistoryInv.endChunk (h : HistoryInv s) : HistoryInv (endChunk s) := by
  have ended : HistoryInv (Machine.emit (.chunkDone (chunkBytes s.ch s.cn)) s) := h.emit rfl
  rcases endChunk_cases s with ⟨e, he⟩ | ⟨v, -, he⟩ | ⟨-, he⟩ <;> rw [he]
  · exact { ended with }
  · exact { ended.emit (e := .accept s.ch.b0 s.ch.b1 s.ch.b2 s.ch.b3) rfl with }
  · exact { ended.emit (e := .discard (chunkBytes s.ch s.cn)) rfl with }

theorem HistoryInv.xTake (h : HistoryInv s) (b : Byte) (rest : List Byte) : HistoryInv (xTake b rest s) := by
  have taken : HistoryInv (takeByte b rest s) := { h.emit (e := .rxTake b) rfl with }
  unfold Machine.xTake
  dsimp only
  split
  · exact taken.endChunk
  · exact taken

theorem HistoryInv.xPace (h : HistoryInv s) : HistoryInv (xPace s) :=
  HistoryInv.opReturn (s := { Machine.emit (.wait .pace s.params.tPaceMs) s with xs := .idle })
    { h.emit (e := .wait .pace s.params.tPaceMs) rfl with }

theorem HistoryInv.pulseSend (h : HistoryInv s) (op : ClientOp) (pv c a d : Byte) :
    HistoryInv (Machine.sendFrame op c a d { s with pv := pv }) :=
  HistoryInv.sendFrame (s := { s with pv := pv }) { h with } op c a d

theorem HistoryInv.ownerStep (h : HistoryInv s) (ht : ownerStep s = some t) : HistoryInv t := by
  rcases ownerStep_cases ht with ⟨-, rfl⟩ | ⟨-, rfl⟩ | ⟨b, rest, -, -, -, rfl⟩ | ⟨-, rfl⟩ | ⟨card, -, -, rfl⟩ |
    ⟨card, -, -, rfl⟩ | ⟨card, -, -, rfl⟩
  · exact { h.emit (e := .flush) rfl with }
  · exact { h.emit (e := .tx s.txf.b0 s.txf.b1 s.txf.b2 s.txf.b3) rfl with }
  · exact h.xTake b rest
  · exact h.xPace
  · exact h.pulseSend _ _ _ _ _
  · exact { h.emit (e := .wait .pulseHold s.params.tPulseMs) rfl with }
  · exact h.pulseSend _ _ _ _ _

theorem HistoryInv.rxArrive (h : HistoryInv s) (b : Byte) : HistoryInv (rxArrive b s) := by
  rcases rxArrive_cases b s with ⟨-, -, he⟩ | ⟨-, he⟩ <;> rw [he]
  · exact { h with }
  · exact h

theorem HistoryInv.readTimeout (h : HistoryInv s) : HistoryInv (readTimeout s) := by
  unfold Machine.readTimeout
  split
  · exact h.endChunk
  · exact h

theorem HistoryInv.startRequest (h : HistoryInv s) (r : ClientRequest) : HistoryInv (startRequest r s) := by
  rcases startRequest_cases r s with ⟨e, he⟩ | he | ⟨op, c, a, d, -, -, he⟩ <;> rw [he]
  · exact h.raise _ e
  · unfold startRaw
    split
    · exact HistoryInv.startExchange (s := takeRequest s) { h with } .raw
    · exact h.startExchange .raw
  · exact h.sendFrame op c a d

/-! ### The workers and the producer -/

/-- SWITCHER's steps: its Pop takes the head of REQQ, its push adds to RESQ (R240 to R247). -/
theorem HistoryInv.swStep (h : HistoryInv s) (ht : swStep s = some t) : HistoryInv t := by
  rcases swStep_cases ht with ⟨-, rfl⟩ | ⟨r, -, hr, rfl⟩ | ⟨-, -, rfl⟩ | ⟨-, ho⟩ | ⟨-, -, rfl⟩ | ⟨-, rfl⟩
  · unfold swTop
    split
    · exact { h.emit (e := .exited .sw) rfl with }
    · exact { h with }
  · exact { h.popReq hr with }
  · exact h.sendFrame _ _ _ _
  · exact h.ownerStep ho
  · exact { h.pushRes s.lres with }
  · exact { h.emit (e := .wait .settle s.lreq.settle) rfl with }

theorem HistoryInv.swPoll (h : HistoryInv s) : HistoryInv (swPoll s) := by
  unfold Machine.swPoll
  split
  · exact { h with }
  · exact h

theorem HistoryInv.dpStep (h : HistoryInv s) (ht : dpStep s = some t) : HistoryInv t := by
  rcases dpStep_cases ht with ⟨-, rfl⟩ | ⟨v, -, hv, rfl⟩
  · unfold dpTop
    split
    · exact { h.emit (e := .exited .dp) rfl with }
    · exact { h with }
  · exact h.deliver hv

theorem HistoryInv.dpPoll (h : HistoryInv s) : HistoryInv (dpPoll s) := by
  unfold Machine.dpPoll
  split
  · exact { h with }
  · exact h

theorem HistoryInv.pushAll (rs : List PendingRequest) : ∀ {s : State}, HistoryInv s → HistoryInv (pushAll rs s) := by
  induction rs with
  | nil => exact id
  | cons r rest ih => exact fun h => ih (h.pushReq r)

theorem HistoryInv.fePush (h : HistoryInv s) {r : FeRequest} (ht : fePush r s = some t) : HistoryInv t := by
  obtain ⟨-, rfl⟩ := fePush_some ht
  exact (h.pushAll _).complete .frontEnd .unit

theorem HistoryInv.fePresent (h : HistoryInv s) (r : FeRequest) : HistoryInv (fePresent r s) := by
  rcases fePresent_cases r s with hp | he
  · exact h.fePush hp
  · rw [he]; exact { h with }

theorem HistoryInv.feRetry (h : HistoryInv s) : HistoryInv (feRetry s) := by
  rcases feRetry_cases s with he | ⟨r, rest, t, -, hp, he⟩ <;> rw [he]
  · exact h
  · exact { h.fePush hp with }

/-- A SYNC step moves counts of REQQ and none of its entries (R231). -/
theorem HistoryInv.withReqq (h : HistoryInv s) {q : Fifo PendingRequest} (hi : q.items = s.reqq.items) :
    HistoryInv { s with reqq := q } :=
  { h with req := h.req.trans (by rw [hi]) }

theorem HistoryInv.withResq (h : HistoryInv s) {q : Fifo Byte} (hi : q.items = s.resq.items) :
    HistoryInv { s with resq := q } :=
  { h with res := h.res.trans (by rw [hi]) }

end

/-- The history invariant, part by part. -/
theorem historyInv_keptByParts : KeptByParts HistoryInv where
  ports _ _ _ _ _ h := { h with }
  inputs _ _ _ h := { h with }
  own _ _ h ht := h.ownerStep ht
  arrive b _ h := h.rxArrive b
  timeout _ h := h.readTimeout
  start r _ _ h := h.startRequest r
  encode _ _ _ h := { h with }
  opened _ _ _ h := { (h.emit (e := .flush) rfl).emit (e := .opened) rfl with }
  closed _ _ _ h := { h.emit (e := .closed) rfl with }
  startSw _ _ _ h := { h with }
  startDp _ _ h := { h with }
  switcher _ _ h ht := h.swStep ht
  swPoll _ h := h.swPoll
  display _ _ h ht := h.dpStep ht
  dpPoll _ h := h.dpPoll
  present r _ _ h := h.fePresent r
  retry _ h := h.feRetry
  syncReqW n _ h := h.withReqq (fifoSyncW_items n _)
  syncReqR m _ h := h.withReqq (fifoSyncR_items _ m _)
  syncResW n _ h := h.withResq (fifoSyncW_items n _)
  syncResR m _ h := h.withResq (fifoSyncR_items _ m _)
  sampleSw _ h := { h with }
  sampleDp _ h := { h with }
  driveIntr _ _ h := { h with }
  driveLineOk _ _ h := { h with }
  draw _ h := { h with }
  writeCsum _ _ _ h := { h with }
  writeMax _ _ _ h := { h with }
  reset s _ := { historyInv_resetWith s.params with }

/-- Settles O54: every part of a step keeps the history invariant, so every step does. -/
theorem historyInvKept : Obligations.HistoryInvKept := fun s t h ht => historyInv_keptByParts.step s t h ht

end Sys2Proof.Machine

namespace Sys2Proof.Machine

/-! ## Arrivals on the line (R64) -/

/-- Room in a buffer: used and wanted places together are within a finite capacity. -/
theorem hasRoom_iff {depth : Option Nat} {used n : Nat} :
    hasRoom depth used n = true ↔ ∀ d, depth = some d → used + n ≤ d := by
  cases depth <;> simp [hasRoom]

theorem rxArrive_of_room {s : State} (b : Byte) (ho : s.isOpen = true)
    (hr : hasRoom s.params.rxbDepth s.rxb.length 1 = true) : rxArrive b s = { s with rxb := s.rxb ++ [b] } := by
  rw [rxArrive, ho, hr]
  rfl

theorem rxArrive_of_closed {s : State} (b : Byte) (ho : s.isOpen = false) : rxArrive b s = s := by
  rw [rxArrive, ho]
  rfl

theorem rxArrive_of_full {s : State} (b : Byte) (hr : hasRoom s.params.rxbDepth s.rxb.length 1 = false) :
    rxArrive b s = s := by
  rw [rxArrive, hr, Bool.and_false]
  rfl

/-- Settles O11: the three outcomes of an arrival. -/
theorem lineArrival : Obligations.LineArrival := by
  intro b s
  refine ⟨fun ho hd => ?_, fun ho => ?_, fun d hd hf => ?_⟩
  · exact congrArg _ (rxArrive_of_room b ho (hasRoom_iff.mpr hd))
  · exact congrArg _ (rxArrive_of_closed b ho)
  · refine congrArg _ (rxArrive_of_full b ?_)
    simp [hd, hasRoom, hf]

/-- The bytes of `bs` arrive one after another. -/
def arriveAll (bs : List Byte) (s : State) : State := bs.foldl (fun t b => rxArrive b t) s

theorem arriveAll_of_closed {s : State} (ho : s.isOpen = false) (bs : List Byte) : arriveAll bs s = s := by
  induction bs with
  | nil => rfl
  | cons b rest ih => rw [arriveAll, List.foldl_cons, rxArrive_of_closed b ho]; exact ih

/-- With room for all of them, the arriving bytes join RXB in order. -/
theorem arriveAll_of_room (bs : List Byte) : ∀ {s : State}, s.isOpen = true →
    (∀ d, s.params.rxbDepth = some d → s.rxb.length + bs.length ≤ d) →
    arriveAll bs s = { s with rxb := s.rxb ++ bs } := by
  induction bs with
  | nil => intro s _ _; simp [arriveAll]
  | cons b rest ih =>
    intro s ho hd
    have head : rxArrive b s = { s with rxb := s.rxb ++ [b] } :=
      rxArrive_of_room b ho (hasRoom_iff.mpr fun d hk => by have := hd d hk; simp at this; omega)
    have others := ih (s := { s with rxb := s.rxb ++ [b] }) ho
      fun d hk => by have := hd d hk; simp at this ⊢; omega
    rw [arriveAll, List.foldl_cons, head]
    simpa [arriveAll] using others

/-- Outside `X_READ` the delivery of a frame is its four arrivals and nothing else (R102, log 4). -/
theorem deliverFrame_of_not_reading {s : State} (b0 b1 b2 b3 : Byte)
    (hx : (arriveAll [b0, b1, b2, b3] s).xs ≠ .read) :
    deliverFrame b0 b1 b2 b3 s = .next (arriveAll [b0, b1, b2, b3] s) :=
  congrArg _ (if_neg hx)

/-- An encoded frame whose command byte is above 8 is a response or a reserved frame, which LINE delivers
(R96, R91). -/
theorem exec_of_received {i : Instr} {b0 b1 b2 b3 : Byte} (he : encode i = some [b0, b1, b2, b3])
    (hb : 9 ≤ b0.toNat) (s : State) : exec i s = deliverFrame b0 b1 b2 b3 s := by
  cases i with
  | noop | setup | getport | setport | getoption | setoption | setsingle | delsingle | toggle =>
    obtain ⟨rfl, -⟩ := List.cons.inj (Option.some.inj he)
    exact absurd hb (by decide)
  | rNoop | rSetup | rGetport | rSetport | rGetoption | rSetoption | rSetsingle | rDelsingle | rToggle
  | rsvdLow0909 | rsvdLow0A0B | rsvdLow0C0F | rsvdMid101F | rsvdMid203F | rsvdMid407F | rsvdMid80BF | rsvdMidC0DF
  | rsvdMidE0EF | rsvdHighF0F3 | rsvdHighF4F5 | rsvdHighF6F6 =>
    cases he
    rfl
  | csum | encode | decode | isresp | respcode | reqcode | label | pack | unpack | mask1 | connect | communicate
  | shutdown | setall | query | enable | disable | pulse | submit | batch | startSw | startDp | swIter | dpIter =>
    cases he

/-- Settles O32: a received frame is its four arrivals, which fill RXB or, on a closed transport, are dropped. -/
theorem receivedFramesArrive : Obligations.ReceivedFramesArrive := by
  intro i b0 b1 b2 b3 s he hb hx
  rw [exec_of_received he hb]
  refine ⟨fun ho => ?_, fun ho hd => ?_⟩
  · have dropped := arriveAll_of_closed ho [b0, b1, b2, b3]
    rw [deliverFrame_of_not_reading _ _ _ _ (by rwa [dropped]), dropped]
  · have joined := arriveAll_of_room [b0, b1, b2, b3] ho hd
    rw [deliverFrame_of_not_reading _ _ _ _ (by rwa [joined]), joined]

end Sys2Proof.Machine

namespace Sys2Proof

/-! ## The rows of the frame table (R91, R95, R96) -/

/-- A row of one command byte. -/
def exactRow (command : Byte) (make : Byte → Byte → Byte → Instr) : FrameRow :=
  ⟨0xFF, command, fun _ a d x => make a d x⟩

/-- A row of a reserved range: the command bytes whose high bits are `hi`, the low bits being an operand. -/
def rangeRow {m n : Nat} (hw : m + n = 8) (hi : BitVec m) (make : BitVec n → Byte → Byte → Byte → Instr) : FrameRow :=
  ⟨(BitVec.allOnes m ++ 0#n).cast hw, (hi ++ 0#n).cast hw, fun c a d x => make (c.setWidth n) a d x⟩

theorem requestRows_eq : requestRows =
    [exactRow 0x00 .noop, exactRow 0x01 .setup, exactRow 0x02 .getport, exactRow 0x03 .setport,
      exactRow 0x04 .getoption, exactRow 0x05 .setoption, exactRow 0x06 .setsingle, exactRow 0x07 .delsingle,
      exactRow 0x08 .toggle] := rfl

theorem responseRows_eq : responseRows =
    [exactRow 0xFF .rNoop, exactRow 0xFE .rSetup, exactRow 0xFD .rGetport, exactRow 0xFC .rSetport,
      exactRow 0xFB .rGetoption, exactRow 0xFA .rSetoption, exactRow 0xF9 .rSetsingle, exactRow 0xF8 .rDelsingle,
      exactRow 0xF7 .rToggle] := rfl

theorem reservedRows_eq : reservedRows =
    [exactRow 0x09 .rsvdLow0909, rangeRow rfl 0x05#7 .rsvdLow0A0B, rangeRow rfl 0x03#6 .rsvdLow0C0F,
      rangeRow rfl 0x1#4 .rsvdMid101F, rangeRow rfl 0x1#3 .rsvdMid203F, rangeRow rfl 0x1#2 .rsvdMid407F,
      rangeRow rfl 0x2#2 .rsvdMid80BF, rangeRow rfl 0x6#3 .rsvdMidC0DF, rangeRow rfl 0xE#4 .rsvdMidE0EF,
      rangeRow rfl 0x3C#6 .rsvdHighF0F3, rangeRow rfl 0x7A#7 .rsvdHighF4F5, exactRow 0xF6 .rsvdHighF6F6] := rfl

theorem exactRow_hits_iff {p c : Byte} {make : Byte → Byte → Byte → Instr} :
    (exactRow p make).hits c = true ↔ c = p := by
  have all : c &&& 255#8 = c := BitVec.and_allOnes
  simp [FrameRow.hits, exactRow, all]

/-- A range matches a byte by its high bits alone. -/
theorem rangeRow_hits_iff {m n : Nat} {hw : m + n = 8} {hi top : BitVec m} {sub : BitVec n}
    {make : BitVec n → Byte → Byte → Byte → Instr} :
    (rangeRow hw hi make).hits ((top ++ sub).cast hw) = true ↔ top = hi := by
  have uncast : (top ++ 0#n).cast hw = (hi ++ 0#n).cast hw ↔ top ++ 0#n = hi ++ 0#n := by
    rw [← BitVec.toNat_inj, BitVec.toNat_cast, BitVec.toNat_cast, BitVec.toNat_inj]
  simp [FrameRow.hits, rangeRow, uncast, BitVec.append_left_inj]

theorem rangeRow_make {m n : Nat} {hw : m + n = 8} {hi top : BitVec m} {sub : BitVec n}
    {make : BitVec n → Byte → Byte → Byte → Instr} (a d x : Byte) :
    (rangeRow hw hi make).make ((top ++ sub).cast hw) a d x = make sub a d x := by
  simp [rangeRow, BitVec.setWidth_append_eq_right]

theorem exists_eq_append {m n w : Nat} (hw : m + n = w) (c : BitVec w) :
    ∃ (top : BitVec m) (sub : BitVec n), c = (top ++ sub).cast hw := by
  subst hw
  exact ⟨_, _, BitVec.extractLsb'_append_extractLsb'.symm⟩

/-! ## Decoding goes by the one row that matches -/

theorem countP_hits_eq_one : ∀ c : Byte, frameRows.countP (fun r => r.hits c) = 1 := by decide

/-- Whichever row matches, the decoder takes it, since no other does (R112). -/
theorem decode_of_hits {r : FrameRow} (hr : r ∈ frameRows) {c : Byte} (hc : r.hits c = true) (a d x : Byte) :
    decode [c, a, d, x] = .ok (r.make c a d x) := by
  obtain ⟨q, hq⟩ : ∃ q, frameRows.filter (·.hits c) = [q] :=
    List.length_eq_one_iff.mp (List.countP_eq_length_filter ▸ countP_hits_eq_one c)
  have found : frameRows.find? (·.hits c) = some q := by rw [← List.head?_filter, hq]; rfl
  have same : r = q := List.mem_singleton.mp (hq ▸ List.mem_filter_of_mem hr hc)
  simp [decode, decodeFrame, found, same]

theorem decode_range {m n : Nat} (hw : m + n = 8) (hi : BitVec m) {make : BitVec n → Byte → Byte → Byte → Instr}
    (hr : rangeRow hw hi make ∈ reservedRows) (sub : BitVec n) (a d x : Byte) :
    decode [(hi ++ sub).cast hw, a, d, x] = .ok (make sub a d x) :=
  (decode_of_hits (List.mem_append_right _ hr) (rangeRow_hits_iff.mpr rfl) a d x).trans (congrArg _ (rangeRow_make a d x))

/-- What four bytes decode to comes from a row that matches their first. -/
theorem exists_row_of_decode {bs : List Byte} {i : Instr} (h : decode bs = .ok i) :
    ∃ r ∈ frameRows, ∃ c a d x, bs = [c, a, d, x] ∧ r.hits c = true ∧ i = r.make c a d x := by
  unfold decode at h
  split at h
  case h_1 c a d x =>
    unfold decodeFrame at h
    split at h
    case h_1 r found =>
      exact ⟨r, List.mem_of_find?_eq_some found, c, a, d, x, rfl, List.find?_some (p := (FrameRow.hits · c)) found,
        (Except.ok.inj h).symm⟩
    case h_2 => cases h
  case h_2 => cases h

theorem exists_decode (c a d x : Byte) : ∃ i, decode [c, a, d, x] = .ok i := by
  obtain ⟨r, hr, hc⟩ : ∃ r ∈ frameRows, r.hits c = true :=
    List.countP_pos_iff.mp (by rw [countP_hits_eq_one c]; exact Nat.one_pos)
  exact ⟨_, decode_of_hits hr hc a d x⟩

theorem decode_of_length_ne {bs : List Byte} (h : bs.length ≠ 4) : decode bs = .error (.length bs.length) := by
  unfold decode
  split
  · exact absurd rfl h
  · rfl

/-- Settles O48: exactly one row matches a command byte, so four bytes decode; another number is rejected. -/
theorem decoderIsTotal : Obligations.DecoderIsTotal :=
  ⟨exists_decode, countP_hits_eq_one, fun _ h => decode_of_length_ne h⟩

/-! ## Encoding gives back the bytes a row was decoded from -/

/-- The instructions of the row encode to the bytes they were made from. -/
def FrameRow.Faithful (r : FrameRow) : Prop :=
  ∀ c a d x, r.hits c = true → encode (r.make c a d x) = some [c, a, d, x]

theorem exactRow_faithful {p : Byte} {make : Byte → Byte → Byte → Instr}
    (he : ∀ a d x, encode (make a d x) = some [p, a, d, x]) : (exactRow p make).Faithful := by
  intro c a d x hc
  obtain rfl := exactRow_hits_iff.mp hc
  exact he a d x

theorem rangeRow_faithful {m n : Nat} {hw : m + n = 8} {hi : BitVec m} {make : BitVec n → Byte → Byte → Byte → Instr}
    (he : ∀ sub a d x, encode (make sub a d x) = some [(hi ++ sub).cast hw, a, d, x]) :
    (rangeRow hw hi make).Faithful := by
  intro c a d x hc
  obtain ⟨top, sub, rfl⟩ := exists_eq_append hw c
  obtain rfl := rangeRow_hits_iff.mp hc
  rw [rangeRow_make, he]

theorem frameRows_faithful : ∀ r ∈ frameRows, r.Faithful := by
  simp only [frameRows, requestRows_eq, responseRows_eq, reservedRows_eq, List.forall_mem_append, List.forall_mem_cons,
    List.not_mem_nil, false_implies, implies_true, and_true]
  refine ⟨⟨?_, ?_⟩, ?_⟩
  · refine ⟨?_, ?_, ?_, ?_, ?_, ?_, ?_, ?_, ?_⟩ <;> exact exactRow_faithful fun _ _ _ => rfl
  · refine ⟨?_, ?_, ?_, ?_, ?_, ?_, ?_, ?_, ?_⟩ <;> exact exactRow_faithful fun _ _ _ => rfl
  · refine ⟨exactRow_faithful fun _ _ _ => rfl, ?_, ?_, ?_, ?_, ?_, ?_, ?_, ?_, ?_, ?_,
      exactRow_faithful fun _ _ _ => rfl⟩ <;> exact rangeRow_faithful fun _ _ _ _ => rfl

theorem encode_of_decode {bs : List Byte} {i : Instr} (h : decode bs = .ok i) : encode i = some bs := by
  obtain ⟨r, hr, c, a, d, x, rfl, hc, rfl⟩ := exists_row_of_decode h
  exact frameRows_faithful r hr c a d x hc

theorem decode_of_encode {i : Instr} {bs : List Byte} (h : encode i = some bs) : decode bs = .ok i := by
  cases i with
  | noop | setup | getport | setport | getoption | setoption | setsingle | delsingle | toggle
  | rNoop | rSetup | rGetport | rSetport | rGetoption | rSetoption | rSetsingle | rDelsingle | rToggle
  | rsvdLow0909 | rsvdHighF6F6 =>
    cases h
    rfl
  | rsvdLow0A0B sub a d x => cases h; exact decode_range rfl 0x05#7 (by simp [reservedRows_eq]) sub a d x
  | rsvdLow0C0F sub a d x => cases h; exact decode_range rfl 0x03#6 (by simp [reservedRows_eq]) sub a d x
  | rsvdMid101F sub a d x => cases h; exact decode_range rfl 0x1#4 (by simp [reservedRows_eq]) sub a d x
  | rsvdMid203F sub a d x => cases h; exact decode_range rfl 0x1#3 (by simp [reservedRows_eq]) sub a d x
  | rsvdMid407F sub a d x => cases h; exact decode_range rfl 0x1#2 (by simp [reservedRows_eq]) sub a d x
  | rsvdMid80BF sub a d x => cases h; exact decode_range rfl 0x2#2 (by simp [reservedRows_eq]) sub a d x
  | rsvdMidC0DF sub a d x => cases h; exact decode_range rfl 0x6#3 (by simp [reservedRows_eq]) sub a d x
  | rsvdMidE0EF sub a d x => cases h; exact decode_range rfl 0xE#4 (by simp [reservedRows_eq]) sub a d x
  | rsvdHighF0F3 sub a d x => cases h; exact decode_range rfl 0x3C#6 (by simp [reservedRows_eq]) sub a d x
  | rsvdHighF4F5 sub a d x => cases h; exact decode_range rfl 0x7A#7 (by simp [reservedRows_eq]) sub a d x
  | csum | encode | decode | isresp | respcode | reqcode | label | pack | unpack | mask1 | connect | communicate
  | shutdown | setall | query | enable | disable | pulse | submit | batch | startSw | startDp | swIter | dpIter =>
    cases h

/-- Settles O50: the rows match without overlap, and each is inverted by the encoder. -/
theorem decodeEncodeAgree : Obligations.DecodeEncodeAgree :=
  ⟨fun _ _ => decode_of_encode, fun _ _ => encode_of_decode⟩

/-! ## Words and request frames -/

theorem decodeTableWord_of_encode {i : Instr} {w : Nat} (h : encode i = some (wordBytes (tableWord 32 w))) :
    decodeTableWord 32 w = some i := by
  simp [decodeTableWord, decode_of_encode h]

/-- Settles O49: each word holds the bytes its instruction encodes to. -/
theorem writtenWordsDecode : Obligations.WrittenWordsDecode :=
  ⟨decodeTableWord_of_encode rfl, decodeTableWord_of_encode rfl, decodeTableWord_of_encode rfl,
    decodeTableWord_of_encode rfl, decodeTableWord_of_encode rfl, decodeTableWord_of_encode rfl⟩

theorem requestCode_cases {c : Byte} (h : c.toNat ≤ 8) :
    c = 0 ∨ c = 1 ∨ c = 2 ∨ c = 3 ∨ c = 4 ∨ c = 5 ∨ c = 6 ∨ c = 7 ∨ c = 8 := by
  bv_omega

/-- A request code decodes to a request frame, whose well-formedness is the test of its checksum byte (R95, R94). -/
theorem decode_request {c : Byte} (hc : c.toNat ≤ 8) (a d x : Byte) :
    ∃ i, decode [c, a, d, x] = .ok i ∧ i.wellFormed = requestChecksumOk c a d x := by
  rcases requestCode_cases hc with rfl | rfl | rfl | rfl | rfl | rfl | rfl | rfl | rfl <;> exact ⟨_, rfl, rfl⟩

theorem requestChecksumOk_iff {c a d x : Byte} : requestChecksumOk c a d x = true ↔ x = c ^^^ a ^^^ d := by
  simp [requestChecksumOk, Machine.csum]

/-- Settles O51: a request frame is the one its bytes decode to, and ENCODE's fourth byte is the checksum. -/
theorem requestWellFormed : Obligations.RequestWellFormed := by
  refine ⟨fun i b0 b1 b2 b3 he hb => ?_, fun c a d hc => ?_⟩
  · obtain ⟨j, hj, hw⟩ := decode_request hb b1 b2 b3
    obtain rfl : i = j := Except.ok.inj ((decode_of_encode he).symm.trans hj)
    rw [hw, requestChecksumOk_iff]
  · obtain ⟨i, hi, hw⟩ := decode_request hc a d (Machine.csum c a d)
    exact ⟨i, hw.trans (requestChecksumOk_iff.mpr rfl), encode_of_decode hi⟩

end Sys2Proof

namespace Sys2Proof.Machine

/-! ## Fetching (R10, R103): one equation per kind of entry -/

section
variable {s : State} {rest : List Action}

theorem step_of_idle (h : s.agenda = []) : step s = .next s := by
  simp [step, fetch, h]

theorem step_of_op {i : Instr} (h : s.agenda = .op i :: rest) : step s = exec i { s with agenda := rest } := by
  simp [step, fetch, h]

theorem step_of_agent {a : AgentStep} (h : s.agenda = .agent a :: rest) :
    step s = agentStep a { s with agenda := rest } := by
  simp [step, fetch, h]

theorem step_of_frame {bs : List Byte} {i : Instr} (h : s.agenda = .frame bs :: rest)
    (hd : Sys2Proof.decode bs = .ok i) : step s = exec i { s with agenda := rest } := by
  simp [step, fetch, h, hd]

theorem step_of_malformed {bs : List Byte} {e : DecodeError} (h : s.agenda = .frame bs :: rest)
    (hd : Sys2Proof.decode bs = .error e) : step s = decodeStop e := by
  simp [step, fetch, h, hd]

end

/-- Settles O45: each kind of entry by its own equation, a frame through what its bytes decode to. -/
theorem stepRunsInstruction : Obligations.StepRunsInstruction := fun _ _ =>
  ⟨fun _ _ h hd => step_of_frame h hd, fun _ h => step_of_op h, fun _ h => step_of_agent h, step_of_idle,
    fun _ h hn => step_of_malformed h (decode_of_length_ne hn)⟩

/-! ## A received frame in an exchange (R101, R176, R178) -/

/-- A byte that does not fill the chunk is only taken, whatever else RXB holds. -/
theorem advance_takeByte {s : State} (b : Byte) (rest : List Byte) (hx : s.xs = .read) (hr : s.rxb = b :: rest)
    (hn : s.cn < 3) : advance s = advance (takeByte b rest s) := by
  have unfilled : s.cn ≠ 3 := by omega
  have room : s.cn < 4 := by omega
  exact advance_of_some (by simp [ownerStep, hx, hr, xTake, unfilled, room])

/-- The byte that fills the chunk is taken, and the chunk evaluated in the same step. -/
theorem advance_lastByte {s : State} (b : Byte) (rest : List Byte) (hx : s.xs = .read) (hr : s.rxb = b :: rest)
    (hn : s.cn = 3) : advance s = advance (endChunk (takeByte b rest s)) :=
  advance_of_some (by simp [ownerStep, hx, hr, xTake, hn])

/-- A reader at the start of a chunk that finds all four bytes in RXB takes them and evaluates the chunk. -/
theorem advance_chunk {s : State} (c : Quad) (hx : s.xs = .read) (hn : s.cn = 0) (hr : s.rxb = c.toList) :
    advance s = advance (endChunk (chunkTaken c s)) := by
  let one := takeByte c.b0 [c.b1, c.b2, c.b3] s
  let two := takeByte c.b1 [c.b2, c.b3] one
  let three := takeByte c.b2 [c.b3] two
  have taken : takeByte c.b3 [] three = chunkTaken c s := by
    simp [one, two, three, takeByte, emit, putByte, hn, chunkTaken]
  calc advance s
    _ = advance one := advance_takeByte _ _ hx hr (by simp [hn])
    _ = advance two := advance_takeByte _ _ hx rfl (by simp [one, hn])
    _ = advance three := advance_takeByte _ _ hx rfl (by simp [one, two, hn])
    _ = advance (endChunk (takeByte c.b3 [] three)) := advance_lastByte _ _ hx rfl (by simp [one, two, three, hn])
    _ = advance (endChunk (chunkTaken c s)) := by rw [taken]

/-- A reader that has discarded the chunk `c` and waits for the next. -/
def discarded (c : Quad) (s : State) : State :=
  { s with
    ch := c, cn := 0, rxb := [], disc := s.disc + 1
    ev := s.ev ++ [.rxTake c.b0, .rxTake c.b1, .rxTake c.b2, .rxTake c.b3,
      .chunkDone [c.b0, c.b1, c.b2, c.b3], .discard [c.b0, c.b1, c.b2, c.b3]] }

/-- The evaluation of a full chunk whose first byte is no candidate, MAX_DISCARD being inf (R180). -/
theorem endChunk_discard {s : State} (c : Quad) (hc : c.b0.toNat < 0xF0) (hm : s.maxDiscard = none) :
    endChunk (chunkTaken c s) = discarded c s := by
  have garbage : isCandidate c.b0 = false := by simpa [isCandidate, resyncThreshold] using hc
  simp [endChunk, evalChunk, garbageChunk, chunkTaken, emit, garbage, hm, chunkBytes, Quad.toList, discarded]

/-- Raw COMMUNICATE's pace step after an accepted chunk completes it with the frame (R184, R171). -/
theorem xPace_raw {s : State} (hc : s.cop = .raw) (hv : s.xres = .ok) (hs : s.ss ≠ .exch) :
    xPace s = { s with xs := .idle, ps := .idle, cop := .none, hostPort := .ok (.frame (decodeQuad s.rxf)),
                       ev := s.ev ++ [.wait .pace s.params.tPaceMs] } := by
  simp [xPace, opReturn, emit, hc, afterRaw, hv, opDone, complete, clientAsker, hs, endOp]

/-- With room for four bytes, a frame that meets a reader at the start of a chunk is its whole chunk. -/
theorem deliverFrame_reading {s : State} (c : Quad) (hx : s.xs = .read) (hn : s.cn = 0) (hr : s.rxb = [])
    (ho : s.isOpen = true) (hd : ∀ d, s.params.rxbDepth = some d → 4 ≤ d) :
    deliverFrame c.b0 c.b1 c.b2 c.b3 s = .next (advance (endChunk (chunkTaken c s))) := by
  have joined : arriveAll c.toList s = { s with rxb := c.toList } := by
    rw [arriveAll_of_room _ ho (by simpa [hr, Quad.toList] using hd), hr]; rfl
  have reads : deliverFrame c.b0 c.b1 c.b2 c.b3 s = .next (advance (arriveAll c.toList s)) :=
    congrArg _ (if_pos (by show (arriveAll c.toList s).xs = .read; rw [joined]; exact hx))
  rw [reads, joined, advance_chunk (s := { s with rxb := c.toList }) c hx hn rfl]
  rfl

/-- Settles O33: the frame is one chunk, which is accepted and ends the operation, or is discarded. -/
theorem receivedFramesInExchange : Obligations.ReceivedFramesInExchange := by
  intro i b0 b1 b2 b3 s he hb hx hn hr hc hs ho hd
  rw [exec_of_received he hb, deliverFrame_reading ⟨b0, b1, b2, b3⟩ hx hn hr ho hd]
  refine ⟨fun hi hk => ?_, fun lo hm => ?_⟩
  · have completed := xPace_raw (s := accepted ⟨b0, b1, b2, b3⟩ s) hc rfl hs
    rw [endChunk_accept _ hi hk, advance_of_some (t := xPace (accepted ⟨b0, b1, b2, b3⟩ s)) rfl, completed,
      advance_of_none (ownerStep_idle rfl rfl)]
    simp [accepted, decodeQuad, hr]
  · rw [endChunk_discard _ lo hm, advance_of_none (s := discarded _ s) (ownerStep_waiting hx rfl)]
    simp [discarded, hr]

end Sys2Proof.Machine

namespace Sys2Proof.Machine

/-! ## Raw COMMUNICATE and the request frames (R129, R171) -/

/-- The nine request frames with address `a`, data `d` and checksum byte `x`, each with its code (R130 to R138). -/
def requestInstrs (a d x : Byte) : List (Byte × Instr) :=
  [(0, .noop a d x), (1, .setup a d x), (2, .getport a d x), (3, .setport a d x), (4, .getoption a d x),
    (5, .setoption a d x), (6, .setsingle a d x), (7, .delsingle a d x), (8, .toggle a d x)]

/-- A request frame is sent with its code, which R100 admits; its checksum byte is not looked at (log 5). -/
theorem exec_of_request {a d x k : Byte} {i : Instr} (h : (k, i) ∈ requestInstrs a d x) (s : State) :
    k.toNat ≤ 8 ∧ exec i s = requestFrame k a d s := by
  simp only [requestInstrs, List.mem_cons, Prod.mk.injEq, List.not_mem_nil, or_false] at h
  rcases h with ⟨rfl, rfl⟩ | ⟨rfl, rfl⟩ | ⟨rfl, rfl⟩ | ⟨rfl, rfl⟩ | ⟨rfl, rfl⟩ | ⟨rfl, rfl⟩ | ⟨rfl, rfl⟩
    | ⟨rfl, rfl⟩ | ⟨rfl, rfl⟩ <;> exact ⟨by decide, rfl⟩

/-- With HOST ready and a written TXF whose command byte is a request code, raw COMMUNICATE on an open transport is its
exchange, driven. -/
theorem runRequest_communicate {s : State} (hr : hostReady s) (ho : s.isOpen = true) (hw : s.txfWritten = true)
    (hb : s.txf.b0.toNat ≤ 8) : runRequest .communicate s = .next (driveOp (started .raw s)) := by
  have codeOk : requestCodeOk .communicate s = true := by simp [requestCodeOk, rawRequest, quadView, hw, hb]
  have taken : takeRequest s = s := by
    rcases takeRequest_cases s with ⟨_, kept⟩ | ⟨unwritten, _⟩
    · exact kept
    · simp [hw] at unwritten
  have begun : startRequest .communicate s = started .raw s :=
    (startRaw_open ho (hostReady_idle hr).1).trans (by rw [taken])
  rw [runRequest, issueRequest_ready hr.1 hr.2 codeOk, begun]
  rfl

/-- A raw exchange that the line answers with an acceptable chunk leaves the registers of R189 and completes with the
chunk's frame. -/
theorem driveOp_raw {s : State} (c : Quad) (rest : List LineAct) (hs : s.ss ≠ .exch) (ho : s.isOpen = true)
    (hw : s.txfWritten = true) (hu : rxbUsable s) (hc : 0xF0 ≤ c.b0.toNat) (hk : checkPasses s c)
    (hl : s.lineIn = quadActs c ++ rest) :
    driveOp (started .raw s) =
      { exchanged s.txf c s with hostPort := .ok (.frame (decodeQuad c)), lineIn := rest } := by
  have completed := xPace_raw (s := accepted c (requested (started .raw s))) rfl rfl hs
  have ended : ownerStep (xPace (accepted c (requested (started .raw s)))) = none := by
    rw [completed]; exact ownerStep_idle rfl rfl
  rw [driveOp_accept (s := started .raw s) c rest rfl ho hu hc hk hl,
    drive_pace rest rfl ended (by simp [completed]), completed]
  simp [accepted, requested, started, exchanged, exchangeEvents, hw]

/-- With HOST ready, a request frame is the bytes that ENCODE puts into TXF, sent by raw COMMUNICATE (R129). -/
theorem requestFrame_ready {s : State} (hr : hostReady s) (k a d : Byte) :
    requestFrame k a d s = runRequest .communicate (loadTxf k a d s) := by
  simp [requestFrame, hr.1, hr.2]

/-- Settles O21: the frame is loaded into TXF, and raw COMMUNICATE takes it through its exchange. -/
theorem requestFramesComplete : Obligations.RequestFramesComplete := by
  intro a d x c rest s hr ho hu hc hk hl k i hi
  obtain ⟨code, sent⟩ := exec_of_request (x := x) hi s
  rw [sent, requestFrame_ready hr, runRequest_communicate (s := loadTxf k a d s) hr ho rfl code,
    driveOp_raw (s := loadTxf k a d s) c rest (hostReady_idle hr).1 ho rfl hu hc hk hl]
  rfl

end Sys2Proof.Machine

namespace Sys2Proof.Machine

/-! ## The arithmetic of the codec (R120, R124 to R126) -/

@[simp] theorem csum_self_left (x d : Byte) : csum x x d = d := by
  simp [csum]

/-- The four bytes of a frame with a good checksum cancel. -/
@[simp] theorem xor_csum (c a d : Byte) : c ^^^ a ^^^ d ^^^ csum c a d = 0 := BitVec.xor_self

theorem csum_swap_left (c a d : Byte) : csum c a d = csum a c d := by
  rw [csum, csum, BitVec.xor_comm c a]

theorem csum_swap_right (c a d : Byte) : csum c a d = csum c d a := by
  rw [csum, csum, BitVec.xor_assoc, BitVec.xor_assoc, BitVec.xor_comm a d]

/-- Settles O1: exclusive-or commutes and cancels. -/
theorem csumIsXor : Obligations.CsumIsXor :=
  ⟨fun _ _ _ _ => rfl, by decide, by decide, csum_self_left, xor_csum, fun c a d =>
    ⟨csum_swap_left c a d, csum_swap_right c a d,
      calc csum c a d
        _ = csum c d a := csum_swap_right c a d
        _ = csum d c a := csum_swap_left c d a
        _ = csum d a c := csum_swap_right d c a⟩⟩

/-- The high nibble of a byte is zero exactly below 16. -/
theorem and_responseMask_eq_zero_iff : ∀ c : Byte, c &&& responseMask = 0 ↔ c.toNat < 16 := by decide

/-- The second spelling of R124: the upper four bits as a number. -/
theorem extractLsb'_high_eq_zero_iff (c : Byte) : c.extractLsb' 4 4 = 0 ↔ c.toNat < 16 := by
  have := c.isLt
  rw [← BitVec.toNat_inj, BitVec.extractLsb'_toNat, Nat.shiftRight_eq_div_pow]
  simp
  omega

theorem isResp_iff {c : Byte} : isResp c = true ↔ 16 ≤ c.toNat := by
  rw [isResp, bne_iff_ne, Ne, and_responseMask_eq_zero_iff, not_lt]

theorem isResp_eq_false_iff {c : Byte} : isResp c = false ↔ c.toNat < 16 := by
  rw [← Bool.not_eq_true, isResp_iff, not_le]

/-- Settles O2: the three spellings agree, each being false exactly below 16. -/
theorem isrespHighNibble : Obligations.IsrespHighNibble := by
  intro c s
  have mask : ((c &&& responseMask) != 0) = decide (16 ≤ c.toNat) := by
    rw [Bool.eq_iff_iff, decide_eq_true_iff]
    exact isResp_iff
  have nibble : (c.extractLsb' 4 4 != 0) = decide (16 ≤ c.toNat) := by
    rw [Bool.eq_iff_iff, decide_eq_true_iff, bne_iff_ne, Ne, extractLsb'_high_eq_zero_iff, not_lt]
  exact ⟨rfl, mask.trans nibble.symm, mask⟩

/-- The subtraction of R125 never borrows (R107 (b)). -/
theorem respCode_toNat (c : Byte) : (respCode c).toNat = 255 - c.toNat := by
  have := c.isLt
  simp only [respCode]
  bv_omega

theorem logicalCommand_eq (c : Byte) : logicalCommand c = if 16 ≤ c.toNat then 255 - c else c := by
  simp only [logicalCommand, isResp_iff]
  rfl

/-- A response byte stands for the request that it answers, and a request code for itself (R126). -/
theorem logicalCommand_respCode {c : Byte} (h : isResp (respCode c) = true) : logicalCommand (respCode c) = c := by
  rw [logicalCommand, if_pos h, reqCode_respCode]

theorem logicalCommand_of_not_isResp {c : Byte} (h : isResp c = false) : logicalCommand c = c := by
  simp [logicalCommand, h]

/-- Settles O3: DECODE keeps three bytes, and `255 - c` is the complement, which undoes itself. -/
theorem decodeAndResponseCodes : Obligations.DecodeAndResponseCodes := by
  refine ⟨fun _ _ _ _ _ => rfl, fun _ _ _ _ => rfl, fun _ _ => rfl, fun _ _ => rfl,
    fun c => ⟨respCode_eq_not c, reqCode_respCode c⟩, fun c hc => ⟨respCode_toNat c, ?_⟩, logicalCommand_eq⟩
  rw [respCode_toNat]
  omega

/-- Settles O6: (a) and (b) are the bytes of the frame and `xor_csum`; for (c), a request code is below 16 and its
response byte is not. -/
theorem codecLaws : Obligations.CodecLaws := by
  refine ⟨fun c a d => ⟨rfl, rfl, rfl, rfl, xor_csum c a d⟩, fun _ _ _ => rfl, fun c hc => ?_, fun r hr => ?_⟩
  · have request : isResp c = false := isResp_eq_false_iff.mpr (by omega)
    have response : isResp (respCode c) = true := isResp_iff.mpr (by rw [respCode_toNat]; omega)
    refine ⟨request, response, reqCode_respCode c, ?_⟩
    rw [logicalCommand_respCode response, logicalCommand_of_not_isResp request]
  · exact isResp_iff.mpr (by omega)

/-! ## Labels (R127) -/

theorem labelOf_eq_none_iff {k : Byte} : labelOf k = none ↔ 8 < k.toNat := by
  rw [labelOf, List.getElem?_eq_none_iff]
  rfl

/-- The names of the request codes, in the order of the codes (R95, R104). -/
theorem map_labelText_labelOf (k : Byte) :
    (labelOf k).map labelText =
      ["NOOP", "SETUP", "GETPORT", "SETPORT", "GETOPTION", "SETOPTION", "SETSINGLE", "DELSINGLE", "TOGGLE"][k.toNat]?
    := by
  rw [labelOf, ← List.getElem?_map]
  rfl

theorem exec_label_of_some {f : Frame} {n : CommandName} (h : labelOf (logicalCommand f.command) = some n) (s : State) :
    exec (.label f) s = .next { s with codecPort := .ok (.label n) } := by
  show execLabel f s = _
  rw [execLabel, h]
  rfl

theorem exec_label_of_none {f : Frame} (h : labelOf (logicalCommand f.command) = none) (s : State) :
    exec (.label f) s = .next { s with codecPort := .err (errLabel (logicalCommand f.command)) } := by
  show execLabel f s = _
  rw [execLabel, h]
  rfl

/-- Settles O4: the logical command has a label up to 8, and none above. -/
theorem labelOrError : Obligations.LabelOrError := by
  intro f s k hk
  rw [← logicalCommand_eq] at hk
  subst hk
  refine ⟨fun low => ?_, fun high => exec_label_of_none (labelOf_eq_none_iff.mpr high) s⟩
  have labelled : labelOf (logicalCommand f.command) ≠ none := fun h => absurd (labelOf_eq_none_iff.mp h) (by omega)
  obtain ⟨n, hn⟩ := Option.ne_none_iff_exists'.mp labelled
  exact ⟨n, exec_label_of_some hn s, by rw [← map_labelText_labelOf, hn]; rfl⟩

/-! ## ENCODE (R121) -/

theorem byteInRange_iff {v : Int} : byteInRange v = true ↔ 0 ≤ v ∧ v ≤ 255 := by
  simp [byteInRange]

theorem byteInRange_eq_false_iff {v : Int} : byteInRange v = false ↔ v < 0 ∨ 255 < v := by
  rw [← Bool.not_eq_true, byteInRange_iff]
  omega

/-- ENCODE of three bytes writes TXF and answers its frame, HOST holding the idle transport (R290). -/
theorem exec_encode_of_bytes {c a d : Int} {s : State} (hr : hostReady s) (h : encodeRange c a d = none) :
    exec (.encode c a d) s =
      result (.bytes (frameBytes (byteOfInt c) (byteOfInt a) (byteOfInt d)))
        (writeTxf (frameBytes (byteOfInt c) (byteOfInt a) (byteOfInt d)) s) := by
  show execEncode c a d s = _
  simp [execEncode, hr.1, hr.2, h]

/-- An operand out of range ends ENCODE before TXF is written. -/
theorem exec_encode_of_range {c a d : Int} {s : State} (hr : hostReady s) {which : Info}
    (h : encodeRange c a d = some which) : exec (.encode c a d) s = failure (errRangeByte which) s := by
  show execEncode c a d s = _
  simp [execEncode, hr.1, hr.2, h]

/-- Settles O5: ENCODE goes by the first operand out of range. -/
theorem encodeWritesTxf : Obligations.EncodeWritesTxf := by
  intro c a d s hr
  simp only [← byteInRange_iff, ← byteInRange_eq_false_iff]
  refine ⟨fun hc ha hd => ⟨_, rfl, ?_⟩, fun hc => ?_, fun hc ha => ?_, fun hc ha hd => ?_⟩
  · exact exec_encode_of_bytes hr (by simp [encodeRange, hc, ha, hd])
  · exact exec_encode_of_range hr (by simp [encodeRange, hc])
  · exact exec_encode_of_range hr (by simp [encodeRange, hc, ha])
  · exact exec_encode_of_range hr (by simp [encodeRange, hc, ha, hd])

end Sys2Proof.Machine

namespace Sys2Proof.Machine

/-! ## Relay vectors (R150 to R155) -/

/-- UNPACK, lane by lane (R151). -/
theorem unpack_lane (b : Byte) (i : Fin 8) : (unpack b)[i] = b.getLsbD i := by
  fin_cases i <;> rfl

/-- PACK, lane by lane (R150). -/
theorem getLsbD_pack (v : RelayVec) (i : Fin 8) : (pack v).getLsbD i = v[i] := by
  rw [← unpack_lane, unpack_pack]

/-- The lanes of `MASK1(k)` (R152). -/
theorem oneHot_lane (k : Nat) (i : Fin 8) : (oneHot k)[i] = (k == i.val) := by
  fin_cases i <;> rfl

/-- The packed single-bit mask of an index (R154). -/
theorem pack_oneHot (i : Fin 8) : pack (oneHot i) = (1 : Byte) <<< i.val := by
  refine BitVec.eq_of_getLsbD_eq fun j hj => ?_
  have shifted : ((1 : Byte) <<< i.val).getLsbD j = true ↔ i.val = j := by
    simp only [BitVec.ofNat_eq_ofNat, BitVec.getLsbD_shiftLeft, BitVec.getLsbD_one, Bool.and_eq_true,
      Bool.not_eq_true', decide_eq_true_iff, decide_eq_false_iff_not]
    omega
  rw [getLsbD_pack (oneHot i) ⟨j, hj⟩, oneHot_lane, Bool.eq_iff_iff, beq_iff_eq, shifted]

/-- SETBITS, lane by lane (R155). -/
theorem getLsbD_setBits (b m : Byte) (i : Nat) : (setBits b m).getLsbD i = (b.getLsbD i || m.getLsbD i) :=
  BitVec.getLsbD_or

/-- CLRBITS, lane by lane (R155). -/
theorem getLsbD_clrBits (b m : Byte) {i : Nat} (hi : i < 8) :
    (clrBits b m).getLsbD i = (b.getLsbD i && !m.getLsbD i) := by
  rw [clrBits, BitVec.getLsbD_and, BitVec.getLsbD_not, decide_eq_true hi, Bool.true_and]

theorem clrBits_setBits (b m : Byte) : clrBits (setBits b m) m = clrBits b m := by
  refine BitVec.eq_of_getLsbD_eq fun i hi => ?_
  rw [getLsbD_clrBits _ _ hi, getLsbD_clrBits _ _ hi, getLsbD_setBits, Bool.and_or_distrib_right, Bool.and_not_self,
    Bool.or_false]

/-- Settles O8: PACK and UNPACK by `unpack_pack` and `pack_unpack`, the masks lane by lane. -/
theorem relayVectorLaws : Obligations.RelayVectorLaws := by
  refine ⟨unpack_pack, pack_unpack, fun i => ⟨pack_oneHot i, fun j => ?_⟩,
    fun b m i hi => ⟨getLsbD_setBits b m i, getLsbD_clrBits b m hi⟩, clrBits_setBits, by decide⟩
  rw [oneHot_lane, Bool.eq_iff_iff, beq_iff_eq, decide_eq_true_iff, Fin.ext_iff, eq_comm]

theorem indexInRange_iff {x : Int} : indexInRange x = true ↔ 0 ≤ x ∧ x ≤ 7 := by
  simp [indexInRange]

theorem indexInRange_eq_false_iff {x : Int} : indexInRange x = false ↔ x < 0 ∨ 7 < x := by
  rw [← Bool.not_eq_true, indexInRange_iff]
  omega

theorem exec_unpack_of_byte {b : Int} (h : byteInRange b = true) (s : State) :
    exec (.unpack b) s = .next { s with codecPort := .ok (.vec (unpack (byteOfInt b))) } :=
  if_pos h

theorem exec_unpack_of_range {b : Int} (h : byteInRange b = false) (s : State) :
    exec (.unpack b) s = .next { s with codecPort := .err (errRangeByte 2) } :=
  if_neg (Bool.eq_false_iff.mp h)

theorem exec_mask1_of_index {x : Int} (h : indexInRange x = true) (s : State) :
    exec (.mask1 x) s = .next { s with codecPort := .ok (.vec (oneHot x.toNat)) } :=
  if_pos h

theorem exec_mask1_of_range {x : Int} (h : indexInRange x = false) (s : State) :
    exec (.mask1 x) s = .next { s with codecPort := .err (errRangeIndex x) } :=
  if_neg (Bool.eq_false_iff.mp h)

/-- Settles O7: each operation goes by its range check, and its result is known lane by lane. -/
theorem relayVectorOps : Obligations.RelayVectorOps := by
  refine ⟨fun v s => ⟨pack v, rfl, getLsbD_pack v⟩, fun b s low high => ?_, fun b s out => ?_,
    fun x s low high => ?_, fun x s out => ?_⟩
  · exact ⟨_, exec_unpack_of_byte (byteInRange_iff.mpr ⟨low, high⟩) s, unpack_lane (byteOfInt b)⟩
  · exact exec_unpack_of_range (byteInRange_eq_false_iff.mpr out) s
  · refine ⟨_, exec_mask1_of_index (indexInRange_iff.mpr ⟨low, high⟩) s, fun i => ?_⟩
    rw [oneHot_lane, Bool.eq_iff_iff, beq_iff_eq, decide_eq_true_iff]
    omega
  · exact exec_mask1_of_range (indexInRange_eq_false_iff.mpr out) s

end Sys2Proof.Machine

namespace Sys2Proof.Machine

/-! ## Opening and closing the transport (R166 to R168, R186, R187) -/

/-- What HOST may ask only where it holds the idle transport is refused elsewhere (R290, R187). -/
theorem refused_of_not_hostReady {s : State} (h : ¬ hostReady s) (o : Host.Outcome State Fault Refusal) :
    (if !hostHolds s then .refused .notHolder else if !transportIdle s then .refused .busy else o)
        = Host.Outcome.refused Refusal.notHolder
      ∨ (if !hostHolds s then .refused .notHolder else if !transportIdle s then .refused .busy else o)
        = Host.Outcome.refused Refusal.busy := by
  cases hh : hostHolds s with
  | false => exact .inl rfl
  | true =>
    cases hi : transportIdle s with
    | false => exact .inr rfl
    | true => exact absurd ⟨hh, hi⟩ h

theorem exec_connect_of_ready {s : State} (hr : hostReady s) (ho : s.isOpen = false) :
    exec .connect s =
      if s.lineOpenOk then answer .unit (emit .opened (flushLine { s with isOpen := true }))
      else reject errConnOpen s := by
  show execConnect s = _
  simp [execConnect, hr.1, hr.2, ho]

theorem exec_connect_of_open {s : State} (hr : hostReady s) (ho : s.isOpen = true) :
    exec .connect s = .refused .alreadyOpen := by
  show execConnect s = _
  simp [execConnect, hr.1, hr.2, ho]

/-- Settles O9: an idle, closed transport goes by `line_open_ok`; an open one is refused, and so is who may not ask. -/
theorem connectOutcomes : Obligations.ConnectOutcomes := by
  intro s
  refine ⟨fun hr ho hl => ?_, fun hr ho hl => ?_, exec_connect_of_open, fun hr => refused_of_not_hostReady hr _,
    fun _ => rfl⟩
  · rw [exec_connect_of_ready hr ho, if_pos hl]
    simp [answer, complete, emit, flushLine]
  · rw [exec_connect_of_ready hr ho, if_neg (by simp [hl])]
    rfl

theorem exec_shutdown_of_ready {s : State} (hr : hostReady s) :
    exec .shutdown s = answer .unit (if s.isOpen then closeLine s else s) := by
  show execShutdown s = _
  simp [execShutdown, hr.1, hr.2]

/-- Settles O10: an open transport is closed, a closed one stays as it is, and who may not ask is refused. -/
theorem shutdownOutcomes : Obligations.ShutdownOutcomes := by
  intro s
  refine ⟨fun hr ho => ?_, fun hr ho => ?_, fun hr => refused_of_not_hostReady hr _⟩
  · rw [exec_shutdown_of_ready hr, if_pos ho]
    rfl
  · rw [exec_shutdown_of_ready hr, if_neg (by simp [ho])]
    rfl

/-! ## Whose the exchange is (R176, R290) -/

/-- A step of the owner is taken by HOST, or by SWITCHER in `S_EXCH`, whose SETALL has begun while XS is not idle. -/
theorem agentStep_owner {s t : State} {owner : AgentStep}
    (h : s.ss ≠ .exch ∧ owner = .own ∨ s.ss = .exch ∧ owner = .switcher) (hx : s.xs ≠ .idle)
    (ht : ownerStep s = some t) : agentStep owner s = .next t := by
  rcases h with ⟨hs, rfl⟩ | ⟨hs, rfl⟩
  · simp [agentStep, ownStep, hs, ht]
  · simp [agentStep, swStep, hs, swNotStarted, hx, ht]

theorem ownerStep_flush {s : State} (hx : s.xs = .flush) : ownerStep s = some (xFlush s) := by
  simp [ownerStep, hx]

theorem ownerStep_write {s : State} (hx : s.xs = .write) : ownerStep s = some (xWrite s) := by
  simp [ownerStep, hx]

theorem ownerStep_read {s : State} {b : Byte} {rest : List Byte} (hx : s.xs = .read) (hr : s.rxb = b :: rest)
    (hn : s.cn < 4) : ownerStep s = some (xTake b rest s) := by
  simp [ownerStep, hx, hr, hn]

theorem ownerStep_pace {s : State} (hx : s.xs = .pace) : ownerStep s = some (xPace s) := by
  simp [ownerStep, hx]

/-- Settles O12: the two steps are the owner's, whoever that is. -/
theorem flushAndWriteSteps : Obligations.FlushAndWriteSteps := by
  intro s owner howner
  exact ⟨fun hx => agentStep_owner howner (by simp [hx]) (ownerStep_flush hx),
    fun hx => agentStep_owner howner (by simp [hx]) (ownerStep_write hx)⟩

/-! ## The end of a chunk read (R176, R178 to R182): one equation per verdict -/

theorem isCandidate_iff {c : Byte} : isCandidate c = true ↔ 0xF0 ≤ c.toNat := by
  simp [isCandidate, resyncThreshold]

theorem isCandidate_eq_false_iff {c : Byte} : isCandidate c = false ↔ c.toNat < 0xF0 := by
  rw [← Bool.not_eq_true, isCandidate_iff, not_le]

theorem checkPasses_iff {s : State} {q : Quad} :
    checkPasses s q ↔ (s.csumVerify && checksumBad q) = false := by
  rw [checkPasses, Bool.and_eq_false_iff]
  simp [checksumBad, csum]

/-- The chunk read ends before its first byte (R179). -/
theorem endChunk_of_empty {s : State} (hn : s.cn = 0) :
    endChunk s = { s with ev := s.ev ++ [.chunkDone []], xres := .err (errConnTrunc 0), xs := .pace } := by
  simp [endChunk, evalChunk, emit, hn, chunkBytes, verdict]

/-- A candidate that is cut short (R179). -/
theorem endChunk_of_short {s : State} (h0 : 0 < s.cn) (h4 : s.cn < 4) (hc : 0xF0 ≤ s.ch.b0.toNat) :
    endChunk s = { s with ev := s.ev ++ [.chunkDone (chunkBytes s.ch s.cn)], xres := .err (errConnTrunc s.cn),
                          xs := .pace } := by
  simp [endChunk, evalChunk, emit, h0.ne', h4, isCandidate_iff.mpr hc, verdict]

/-- A garbage chunk below MAX_DISCARD, whatever its length (R180). -/
theorem endChunk_of_garbage {s : State} (h0 : 0 < s.cn) (hc : s.ch.b0.toNat < 0xF0) (hm : s.maxDiscard ≠ some s.disc) :
    endChunk s = { s with ev := s.ev ++ [.chunkDone (chunkBytes s.ch s.cn), .discard (chunkBytes s.ch s.cn)],
                          disc := s.disc + 1, cn := 0 } := by
  have garbage : endChunk s = garbageChunk (emit (.chunkDone (chunkBytes s.ch s.cn)) s) := by
    simp [endChunk, evalChunk, h0.ne', isCandidate_eq_false_iff.mpr hc]
  rw [garbage, garbageChunk]
  cases hd : s.maxDiscard with
  | none => simp [emit, hd]
  | some m =>
    have below : s.disc ≠ m := fun h => hm (by rw [hd, h])
    simp [emit, hd, below]

/-- A garbage chunk at MAX_DISCARD (R180). -/
theorem endChunk_of_desync {s : State} (h0 : 0 < s.cn) (hc : s.ch.b0.toNat < 0xF0) (hm : s.maxDiscard = some s.disc) :
    endChunk s = { s with ev := s.ev ++ [.chunkDone (chunkBytes s.ch s.cn)], xres := .err (errDesync s.disc),
                          xs := .pace } := by
  simp [endChunk, evalChunk, h0.ne', isCandidate_eq_false_iff.mpr hc, garbageChunk, emit, hm, verdict]

theorem endChunk_of_full {s : State} (h4 : s.cn = 4) (hc : 0xF0 ≤ s.ch.b0.toNat) :
    endChunk s = acceptChunk (emit (.chunkDone s.ch.toList) s) := by
  simp [endChunk, evalChunk, emit, chunkBytes, h4, isCandidate_iff.mpr hc, Quad.toList]

/-- A full candidate that passes the optional checksum check (R181, R182). -/
theorem endChunk_of_pass {s : State} (h4 : s.cn = 4) (hc : 0xF0 ≤ s.ch.b0.toNat) (hk : checkPasses s s.ch) :
    endChunk s = { s with ev := s.ev ++ [.chunkDone s.ch.toList, .accept s.ch.b0 s.ch.b1 s.ch.b2 s.ch.b3],
                          rxf := s.ch, rxfWritten := true, xs := .pace, xres := .ok } := by
  rw [endChunk_of_full h4 hc]
  simp [acceptChunk, emit, writeRxf, verdict, checkPasses_iff.mp hk]

/-- A full candidate that fails the optional checksum check: it is in RXF all the same (R182). -/
theorem endChunk_of_csum {s : State} (h4 : s.cn = 4) (hc : 0xF0 ≤ s.ch.b0.toNat) (hk : ¬ checkPasses s s.ch) :
    endChunk s = { s with ev := s.ev ++ [.chunkDone s.ch.toList, .accept s.ch.b0 s.ch.b1 s.ch.b2 s.ch.b3],
                          rxf := s.ch, rxfWritten := true, xs := .pace, xres := .err (errCsum s.ch) } := by
  rw [checkPasses_iff, Bool.not_eq_false] at hk
  rw [endChunk_of_full h4 hc]
  simp [acceptChunk, emit, writeRxf, verdict, hk]

/-- A reader that waits times out (R176). -/
theorem agentStep_readTimeout {s : State} (hx : s.xs = .read) (hn : s.cn < 4) (hr : s.rxb = []) :
    agentStep .readTimeout s = .next (endChunk s) :=
  congrArg _ (if_pos ⟨hx, hn, hr⟩)

/-- Settles O13: the chunk read ends, and its bytes decide which equation of `endChunk` it is. -/
theorem timeoutVerdicts : Obligations.TimeoutVerdicts := by
  intro s hx hr
  refine ⟨fun h0 => ?_, fun h0 h4 hc => ?_, fun h0 h4 hc hm => ?_, fun h0 h4 hc hm => ?_⟩
  · rw [agentStep_readTimeout hx (by omega) hr, endChunk_of_empty h0]
    rfl
  · rw [agentStep_readTimeout hx h4 hr, endChunk_of_short h0 h4 hc]
    rfl
  · rw [agentStep_readTimeout hx h4 hr, endChunk_of_garbage h0 hc hm]
    rfl
  · rw [agentStep_readTimeout hx h4 hr, endChunk_of_desync h0 hc hm]
    rfl

/-! ## The take step (R176) -/

theorem xTake_of_lt {s : State} (b : Byte) (rest : List Byte) (hn : s.cn < 3) : xTake b rest s = takeByte b rest s := by
  have unfilled : s.cn + 1 ≠ 4 := by omega
  simp [xTake, takeByte, unfilled]

/-- A reader whose chunk `q` the byte `b` has filled, before the chunk is evaluated. -/
def filled (b : Byte) (rest : List Byte) (q : Quad) (s : State) : State :=
  { s with rxb := rest, ch := q, cn := 4, ev := s.ev ++ [.rxTake b] }

theorem xTake_of_three {s : State} (b : Byte) (rest : List Byte) (hn : s.cn = 3) :
    xTake b rest s = endChunk (filled b rest { s.ch with b3 := b } s) := by
  simp [xTake, takeByte, emit, putByte, hn, filled]

/-- Settles O14: below three bytes the byte is only taken; as the fourth it ends the chunk, by the equations of
`endChunk`. -/
theorem takeVerdicts : Obligations.TakeVerdicts := by
  intro s owner b rest howner hx hr
  have take : s.cn < 4 → agentStep owner s = .next (xTake b rest s) := fun h4 =>
    agentStep_owner howner (by simp [hx]) (ownerStep_read hx hr h4)
  refine ⟨fun h3 => ?_, fun h3 q hq => ?_⟩
  · rw [take (by omega), xTake_of_lt b rest h3]
    rfl
  · rw [take (by omega), xTake_of_three b rest h3, ← hq]
    refine ⟨fun hc hk => ?_, fun hc hk => ?_, fun hc hm => ?_, fun hc hm => ?_⟩
    · rw [endChunk_of_pass (s := filled b rest q s) rfl hc hk]
      simp [filled]
    · rw [endChunk_of_csum (s := filled b rest q s) rfl hc hk]
      simp [filled, errCsum, csum]
    · rw [endChunk_of_garbage (s := filled b rest q s) (Nat.succ_pos 3) hc hm]
      simp [filled, chunkBytes, Quad.toList]
    · rw [endChunk_of_desync (s := filled b rest q s) (Nat.succ_pos 3) hc hm]
      simp [filled, chunkBytes, Quad.toList, errDesync]

/-! ## The end of an exchange (R184) -/

/-- An exchange of HOST's that failed ends its operation with its error, whichever operation that is (R184, R200,
R280). -/
theorem xPace_err {s : State} {e : Error} (hb : isBetween s.cop = false) (he : s.xres = .err e) (hs : s.ss ≠ .exch) :
    xPace s = { s with xs := .idle, ps := .idle, cop := .none, hostPort := .err e,
                       ev := s.ev ++ [.wait .pace s.params.tPaceMs] } := by
  have fails : opReturn { emit (.wait .pace s.params.tPaceMs) s with xs := .idle }
      = opFail e { emit (.wait .pace s.params.tPaceMs) s with xs := .idle } := by
    cases hc : s.cop with
    | none | pulseSet | pulseHold | pulseClear => simp [hc, isBetween] at hb
    | raw => simp [opReturn, emit, hc, afterRaw, he]
    | setall | query | enable | disable | pulseQuery | pulseOn | pulseOff =>
      simp [opReturn, emit, hc, afterExchange, he]
  rw [xPace, fails]
  simp [opFail, raise, clientAsker, hs, endOp, emit]

/-- Settles O15: the pace step ends raw COMMUNICATE by the verdict in XRES. -/
theorem paceCompletesCommunicate : Obligations.PaceCompletesCommunicate := by
  intro s hx hs hc
  have paces : agentStep .own s = .next (xPace s) :=
    agentStep_owner (.inl ⟨hs, rfl⟩) (by simp [hx]) (ownerStep_pace hx)
  refine ⟨fun hv => ?_, fun e he => ?_⟩
  · rw [paces, xPace_raw hc hv hs]
    rfl
  · rw [paces, xPace_err (by simp [hc, isBetween]) he hs]

end Sys2Proof.Machine

namespace Sys2Proof.Machine

/-! ## The transitions of XS (R188) -/

/-- The start step starts the exchange on an open transport, and on a closed one ends the operation with XS idle
(R172). -/
theorem startExchange_cases (op : ClientOp) (s : State) (h : s.xs = .idle) :
    (s.isOpen = true ∧ (startExchange op s).xs = .flush) ∨ (startExchange op s).xs = .idle := by
  cases ho : s.isOpen with
  | false =>
    have fails : startExchange op s = opFail errConnClosed s := if_neg (by simp [ho])
    exact .inr (by rw [fails]; exact (opFail_idle _ s h).1)
  | true =>
    refine .inl ⟨rfl, ?_⟩
    rw [startExchange, if_pos ho]
    unfold markBusy
    split <;> rfl

/-- PULSE's set step and its clear step write PV and start an exchange (R208). -/
theorem pulseSend_xs (op : ClientOp) (pv c a d : Byte) (s : State) (h : s.xs = .idle) :
    (s.isOpen = true ∧ (sendFrame op c a d { s with pv := pv }).xs = .flush)
      ∨ (sendFrame op c a d { s with pv := pv }).xs = .idle :=
  startExchange_cases op (loadTxf c a d { s with pv := pv, ps := .busy }) h

theorem xTake_xs (b : Byte) (rest : List Byte) (s : State) :
    (xTake b rest s).xs = .pace ∨ (xTake b rest s).xs = s.xs := by
  unfold xTake
  dsimp only
  split
  · exact (endChunk_xs (takeByte b rest s)).2
  · exact .inr rfl

/-- The pairs of R188. -/
def xsMoves : List (XState × XState) :=
  [(.idle, .flush), (.flush, .write), (.write, .read), (.read, .pace), (.pace, .idle)]

/-- XS stays, or makes a transition of R188. -/
def XsMoves (s t : State) : Prop := t.xs = s.xs ∨ (s.xs, t.xs) ∈ xsMoves

theorem XsMoves.start {s t : State} (hs : s.xs = .idle) (ht : t.xs = .flush ∨ t.xs = .idle) : XsMoves s t := by
  rcases ht with h | h <;> simp [XsMoves, xsMoves, hs, h]

/-- What a step of the owner makes of XS (R188; PULSE between its exchanges: log 29). -/
theorem ownerStep_xs {s t : State} (h : ownerStep s = some t) :
    (s.xs = .flush ∧ t.xs = .write) ∨ (s.xs = .write ∧ t.xs = .read)
    ∨ (s.xs = .read ∧ (t.xs = .read ∨ t.xs = .pace)) ∨ (s.xs = .pace ∧ t.xs = .idle)
    ∨ (s.xs = .idle ∧ (t.xs = .idle ∨ (t.xs = .flush ∧ s.isOpen = true
      ∧ ∃ card, s.cop = .pulseSet card ∨ s.cop = .pulseClear card))) := by
  rcases ownerStep_cases h with ⟨hx, rfl⟩ | ⟨hx, rfl⟩ | ⟨b, rest, hx, -, -, rfl⟩ | ⟨hx, rfl⟩ | ⟨card, hx, hc, rfl⟩ |
    ⟨card, hx, -, rfl⟩ | ⟨card, hx, hc, rfl⟩
  · exact .inl ⟨hx, rfl⟩
  · exact .inr (.inl ⟨hx, rfl⟩)
  · refine .inr (.inr (.inl ⟨hx, ?_⟩))
    rw [← hx]
    exact (xTake_xs b rest s).symm
  · exact .inr (.inr (.inr (.inl ⟨hx, xPace_idle s⟩)))
  · rcases pulseSend_xs (.pulseOn card) _ 3 card _ s hx with ⟨ho, hf⟩ | hi
    · exact .inr (.inr (.inr (.inr ⟨hx, .inr ⟨hf, ho, card, .inl hc⟩⟩)))
    · exact .inr (.inr (.inr (.inr ⟨hx, .inl hi⟩)))
  · exact .inr (.inr (.inr (.inr ⟨hx, .inl hx⟩)))
  · rcases pulseSend_xs (.pulseOff card) _ 3 card _ s hx with ⟨ho, hf⟩ | hi
    · exact .inr (.inr (.inr (.inr ⟨hx, .inr ⟨hf, ho, card, .inr hc⟩⟩)))
    · exact .inr (.inr (.inr (.inr ⟨hx, .inl hi⟩)))

theorem XsMoves.own {s t : State} (h : ownerStep s = some t) : XsMoves s t := by
  rcases ownerStep_xs h with ⟨hs, ht⟩ | ⟨hs, ht⟩ | ⟨hs, ht | ht⟩ | ⟨hs, ht⟩ | ⟨hs, ht | ⟨ht, -⟩⟩ <;>
    simp [XsMoves, xsMoves, hs, ht]

theorem XsMoves.timeout (s : State) : XsMoves s (readTimeout s) := by
  unfold readTimeout
  split
  · rename_i hw
    rcases (endChunk_xs s).2 with h | h
    · exact .inr (by simp [xsMoves, hw.1, h])
    · exact .inl h
  · exact .inl rfl

/-- A direct request finds XS idle, and starts an exchange or ends at once. -/
theorem XsMoves.issue {r : ClientRequest} {s t : State} (h : issueRequest r s = .next t) : XsMoves s t := by
  obtain ⟨-, hi, -, rfl⟩ := issueRequest_next h
  have idle := (transportIdle_iff.mp hi).1
  refine .start idle ?_
  rcases startRequest_cases r s with ⟨e, he⟩ | he | ⟨op, c, a, d, -, -, he⟩ <;> rw [he]
  · exact .inr idle
  · unfold startRaw
    split
    · exact (startExchange_xs .raw (takeRequest s) idle).imp_right And.left
    · exact (startExchange_xs .raw s idle).imp_right And.left
  · exact (startExchange_xs op (loadTxf c a d { s with ps := .busy }) idle).imp_right And.left

/-- SWITCHER moves XS only in `S_EXCH`: it starts its SETALL there, or takes a step of the owner. -/
theorem XsMoves.switcher {s t : State} (h : swStep s = some t) : XsMoves s t := by
  rcases swStep_cases h with ⟨-, rfl⟩ | ⟨r, -, -, rfl⟩ | ⟨-, hx, rfl⟩ | ⟨-, ho⟩ | ⟨-, -, rfl⟩ | ⟨-, rfl⟩
  · unfold swTop
    split <;> exact .inl rfl
  · exact .inl rfl
  · exact .start hx ((startExchange_xs .setall (loadTxf 3 s.params.cardId _ { s with ps := .busy }) hx).imp_right
      And.left)
  · exact .own ho
  · exact .inl rfl
  · exact .inl rfl

theorem dpStep_xs {s t : State} (h : dpStep s = some t) : t.xs = s.xs := by
  rcases dpStep_cases h with ⟨-, rfl⟩ | ⟨v, -, -, rfl⟩
  · unfold dpTop
    split <;> rfl
  · rfl

theorem fePush_xs {r : FeRequest} {s t : State} (h : fePush r s = some t) : t.xs = s.xs := by
  obtain ⟨-, rfl⟩ := fePush_some h
  rw [pushAll_eq]
  rfl

theorem feRetry_xs (s : State) : (feRetry s).xs = s.xs := by
  rcases feRetry_cases s with he | ⟨r, rest, t, -, hp, he⟩ <;> rw [he]
  exact fePush_xs (t := t) hp

theorem rxArrive_xs (b : Byte) (s : State) : (rxArrive b s).xs = s.xs := by
  rcases rxArrive_cases b s with ⟨-, -, he⟩ | ⟨-, he⟩ <;> rw [he]

/-- A step that is taken where it is enabled, and no move elsewhere. -/
theorem XsMoves.getD {s : State} {o : Option State} (h : ∀ t, o = some t → XsMoves s t) : XsMoves s (o.getD s) := by
  cases o with
  | none => exact .inl rfl
  | some t => exact h t rfl

/-- Every atomic step of an agent but reset keeps to the transitions of R188. -/
theorem xsMoves_agentStep {a : AgentStep} (ha : a ≠ .reset) (s : State) : answers (XsMoves s) (agentStep a s) := by
  cases a with
  | issue r => exact fun _ => .issue
  | own =>
    refine answers_next ?_
    unfold ownStep
    split
    · exact .inl rfl
    · exact .getD fun _ => .own
  | switcher => exact answers_next (.getD fun _ => .switcher)
  | display => exact answers_next (.getD fun _ ht => .inl (dpStep_xs ht))
  | frontEnd => exact answers_next (.inl (feRetry_xs s))
  | arrive b => exact answers_next (.inl (rxArrive_xs b s))
  | readTimeout => exact answers_next (.timeout s)
  | pollSw =>
    refine answers_next ?_
    unfold swPoll
    split <;> exact .inl rfl
  | pollDp =>
    refine answers_next ?_
    unfold dpPoll
    split <;> exact .inl rfl
  | syncReqW | syncReqR | syncResW | syncResR | driveIntr | driveLineOk => exact answers_next (.inl rfl)
  | sampleIntr w => cases w <;> exact answers_next (.inl rfl)
  | writeCsumVerify v =>
    intro t ht
    obtain ⟨-, -, rfl⟩ := writeControl_next ((agentStep_writeCsumVerify v s).symm.trans ht)
    exact .inl rfl
  | writeMaxDiscard m =>
    intro t ht
    obtain ⟨-, -, rfl⟩ := writeControl_next ((agentStep_writeMaxDiscard m s).symm.trans ht)
    exact .inl rfl
  | readReg r =>
    intro t ht
    obtain ⟨-, -, rfl⟩ := readControl_next (r := r) ht
    exact .inl (afterRead_xs r s)
  | reset => exact absurd rfl ha

/-- Settles O16: the steps of the owner by `ownerStep_xs`, those of every agent by `xsMoves_agentStep`. -/
theorem xsTransitions : Obligations.XsTransitions := by
  refine ⟨fun s t h => ?_, fun a s t ha ht => xsMoves_agentStep ha s t ht⟩
  rcases ownerStep_xs h with ⟨hs, ht⟩ | ⟨hs, ht⟩ | ⟨hs, ht⟩ | ⟨hs, ht⟩ | ⟨hs, ht⟩ <;> simp [hs, ht]

/-! ## The frame of an exchange (R189, R291) -/

/-- The state with everything blanked that an exchange may write: what is left belongs to the producers, to DISPLAY, to
HOST's inputs and to the control registers. -/
def outsideExchange (s : State) : State :=
  { s with
    txf := unwrittenQuad, rxf := unwrittenQuad, ch := unwrittenQuad, cn := 0, disc := 0, xres := .none, lres := 0
    pv := 0, rxb := [], txb := [], xs := .idle, ps := .idle, ss := .stopped, errlog := [], ev := [], cop := .none
    hostPort := .idle, txfWritten := false, rxfWritten := false }

theorem outsideExchange_opFail (e : Error) (s : State) : outsideExchange (opFail e s) = outsideExchange s := by
  unfold opFail clientAsker
  split <;> rfl

theorem outsideExchange_opDone (v : PortValue) (s : State) : outsideExchange (opDone v s) = outsideExchange s := by
  unfold opDone clientAsker
  split
  · unfold complete
    dsimp only
    split <;> rfl
  · rfl

theorem outsideExchange_startExchange (op : ClientOp) (s : State) :
    outsideExchange (startExchange op s) = outsideExchange s := by
  unfold startExchange
  split
  · unfold markBusy
    split <;> rfl
  · exact outsideExchange_opFail _ s

theorem outsideExchange_pulseSend (op : ClientOp) (pv c a d : Byte) (s : State) :
    outsideExchange (sendFrame op c a d { s with pv := pv }) = outsideExchange s :=
  outsideExchange_startExchange op (loadTxf c a d { s with pv := pv, ps := .busy })

theorem outsideExchange_endChunk (s : State) : outsideExchange (endChunk s) = outsideExchange s := by
  rcases endChunk_cases s with ⟨e, he⟩ | ⟨v, -, he⟩ | ⟨-, he⟩ <;> rw [he] <;> rfl

theorem outsideExchange_xTake (b : Byte) (rest : List Byte) (s : State) :
    outsideExchange (xTake b rest s) = outsideExchange s := by
  unfold xTake
  dsimp only
  split
  · exact outsideExchange_endChunk (takeByte b rest s)
  · rfl

theorem outsideExchange_afterExchange (c : Byte) {k : State → State} {s : State}
    (hk : outsideExchange (k s) = outsideExchange s) :
    outsideExchange (afterExchange c k s) = outsideExchange s := by
  rcases afterExchange_cases c k s with ⟨-, he⟩ | ⟨e, he⟩ | he <;> rw [he]
  · exact outsideExchange_opFail e s
  · exact hk

theorem outsideExchange_opReturn (s : State) : outsideExchange (opReturn s) = outsideExchange s := by
  unfold opReturn
  split
  case h_1 | h_8 | h_10 | h_11 => rfl
  case h_2 =>
    unfold afterRaw
    split
    · rfl
    · exact outsideExchange_opFail _ s
    · exact outsideExchange_opDone _ s
  case h_3 | h_4 | h_5 | h_6 | h_12 => exact outsideExchange_afterExchange _ (outsideExchange_opDone _ s)
  case h_7 | h_9 => exact outsideExchange_afterExchange _ rfl

theorem outsideExchange_ownerStep {s t : State} (h : ownerStep s = some t) :
    outsideExchange t = outsideExchange s := by
  rcases ownerStep_cases h with ⟨-, rfl⟩ | ⟨-, rfl⟩ | ⟨b, rest, -, -, -, rfl⟩ | ⟨-, rfl⟩ | ⟨card, -, -, rfl⟩ |
    ⟨card, -, -, rfl⟩ | ⟨card, -, -, rfl⟩
  · rfl
  · rfl
  · exact outsideExchange_xTake b rest s
  · exact outsideExchange_opReturn { emit (.wait .pace s.params.tPaceMs) s with xs := .idle }
  · exact outsideExchange_pulseSend _ _ _ _ _ s
  · rfl
  · exact outsideExchange_pulseSend _ _ _ _ _ s

/-- Settles O17: the fields named are those that `outsideExchange` leaves. -/
theorem exchangeFrame : Obligations.ExchangeFrame := by
  intro s t h
  have kept {α : Type} (field : State → α) : field (outsideExchange t) = field (outsideExchange s) :=
    congrArg field (outsideExchange_ownerStep h)
  exact ⟨kept State.isOpen, kept State.csumVerify, kept State.maxDiscard, kept State.reqq, kept State.resq,
    kept State.cur, kept State.curv, kept State.ds, kept State.doneSw, kept State.doneDp, kept State.lreq,
    kept State.intr, kept State.intrSw, kept State.intrDp, kept State.lineOpenOk, kept State.params,
    kept State.drawn, kept State.codecPort, kept State.fePort, kept State.regPort, kept State.feWait,
    kept State.agenda, kept State.lineIn⟩

end Sys2Proof.Machine

namespace Sys2Proof.Machine

/-! ## RESYNC (R183): one equation per verdict on its first chunk -/

section
variable {verify : Bool} {limit : Option Nat} {disc : Nat} {c0 : Byte} {tail : List Byte} {rest : List (List Byte)}

theorem resync_of_empty : resync verify limit disc ([] :: rest) = .fail (errConnTrunc 0) disc := rfl

theorem resync_of_short (hc : 0xF0 ≤ c0.toNat) (hl : tail.length < 3) :
    resync verify limit disc ((c0 :: tail) :: rest) = .fail (errConnTrunc (tail.length + 1)) disc := by
  rw [resync.eq_def]
  dsimp only
  rw [if_pos (isCandidate_iff.mpr hc)]
  split
  · simp at hl
  · rfl

theorem resync_of_full {c1 c2 c3 : Byte} (hc : 0xF0 ≤ c0.toNat) :
    resync verify limit disc ([c0, c1, c2, c3] :: rest) =
      if verify && checksumBad ⟨c0, c1, c2, c3⟩ then .fail (errCsum ⟨c0, c1, c2, c3⟩) disc
      else .ok ⟨c0, c1, c2, c3⟩ disc := by
  rw [resync.eq_def]
  dsimp only
  rw [if_pos (isCandidate_iff.mpr hc)]

theorem resync_of_garbage (hc : c0.toNat < 0xF0) (hm : limit ≠ some disc) :
    resync verify limit disc ((c0 :: tail) :: rest) = resync verify limit (disc + 1) rest := by
  rw [resync.eq_def]
  dsimp only
  rw [if_neg (by simp [isCandidate_eq_false_iff.mpr hc])]
  cases limit with
  | none => rfl
  | some m => exact if_neg fun h => hm (congrArg some h.symm)

theorem resync_of_desync (hc : c0.toNat < 0xF0) :
    resync verify (some disc) disc ((c0 :: tail) :: rest) = .fail (errDesync disc) disc := by
  rw [resync.eq_def]
  dsimp only
  rw [if_neg (by simp [isCandidate_eq_false_iff.mpr hc]), if_pos rfl]

end

/-- Garbage chunks within MAX_DISCARD are discarded one by one, and the valid chunk after them is returned. -/
theorem resync_garbage_then_valid {verify : Bool} {limit : Option Nat} {f : Quad} (hf : 0xF0 ≤ f.b0.toNat)
    (hk : verify = false ∨ f.b3 = f.b0 ^^^ f.b1 ^^^ f.b2) (gs : List Quad) :
    ∀ disc, (∀ g ∈ gs, g.b0.toNat < 0xF0) → (∀ m, limit = some m → disc + gs.length ≤ m) →
      resync verify limit disc (gs.map Quad.toList ++ [f.toList]) = .ok f (disc + gs.length) := by
  have passes : ¬ (verify && checksumBad f) = true := by
    rcases hk with h | h <;> simp [h, checksumBad, csum]
  induction gs with
  | nil =>
    intro disc _ _
    exact (resync_of_full hf).trans (if_neg passes)
  | cons g gs ih =>
    intro disc hg hm
    have below : limit ≠ some disc := fun h => by have := hm disc h; simp at this
    have others := ih (disc + 1) (fun x hx => hg x (.tail g hx)) fun m h => by
      have := hm m h
      simp at this
      omega
    calc resync verify limit disc (g.toList :: (gs.map Quad.toList ++ [f.toList]))
      _ = resync verify limit (disc + 1) (gs.map Quad.toList ++ [f.toList]) := resync_of_garbage (hg g (.head gs)) below
      _ = .ok f (disc + (g :: gs).length) := by rw [others, List.length_cons]; congr 1; omega

/-- Settles O18: from DISC = 0 every garbage chunk is within MAX_DISCARD. -/
theorem resyncDiscardsGarbage : Obligations.ResyncDiscardsGarbage := by
  intro verify limit gs f hg hf hk hm
  simpa using resync_garbage_then_valid hf hk gs 0 hg (by simpa using hm)

/-! ## A chunk read, byte by byte (R176) -/

/-- A byte that joins the chunk stands behind those taken before it. -/
theorem take_putByte (q : Quad) {n : Nat} (hn : n < 4) (b : Byte) :
    (putByte q n b).toList.take (n + 1) = q.toList.take n ++ [b] := by
  match n, hn with
  | 0, _ | 1, _ | 2, _ | 3, _ => rfl

/-- A reader whose chunk is `q` so far, `n` bytes of it taken. -/
def readerAt (q : Quad) (n : Nat) (es : List Event) (s : State) : State :=
  { s with rxb := [], ch := q, cn := n, ev := es }

/-- The exchange is reading, and can be given a byte. -/
structure Waiting (s : State) : Prop where
  reading : s.xs = .read
  empty : s.rxb = []
  isOpen : s.isOpen = true
  usable : rxbUsable s

/-- Bytes that do not fill the chunk join it one after another. -/
theorem drive_bytes (rest : List LineAct) : ∀ (bs : List Byte) {s : State}, Waiting s → s.cn + bs.length < 4 →
    ∃ q es, q.toList.take (s.cn + bs.length) = s.ch.toList.take s.cn ++ bs
      ∧ drive (bs.map .arrive ++ rest) s = drive rest (readerAt q (s.cn + bs.length) es s) := by
  intro bs
  induction bs with
  | nil =>
    intro s w _
    refine ⟨s.ch, s.ev, by simp, ?_⟩
    have same : readerAt s.ch s.cn s.ev s = s := by rw [readerAt, ← w.empty]
    rw [List.length_nil, Nat.add_zero, same]
    rfl
  | cons b bs ih =>
    intro s w hn
    rw [List.length_cons] at hn
    have taken : Waiting (tookByte b s) := ⟨w.reading, rfl, w.isOpen, w.usable⟩
    obtain ⟨q, es, hq, hd⟩ := ih taken (by show s.cn + 1 + bs.length < 4; omega)
    have count : (tookByte b s).cn + bs.length = s.cn + (b :: bs).length := by
      rw [List.length_cons]
      show s.cn + 1 + bs.length = _
      omega
    rw [count] at hq hd
    refine ⟨q, es, ?_, ?_⟩
    · rw [hq]
      show (putByte s.ch s.cn b).toList.take (s.cn + 1) ++ bs = _
      rw [take_putByte _ (by omega)]
      simp
    · rw [List.map_cons, List.cons_append, drive_byte b _ w.reading (by omega) w.empty w.isOpen w.usable, hd]
      rfl

/-- The acts that make a chunk read return `c` bring the reader to the evaluation of a chunk of those bytes. -/
theorem drive_chunkActs {s : State} (c : List Byte) (rest : List LineAct) (w : Waiting s) (hn : s.cn = 0)
    (hl : c.length ≤ 4) :
    ∃ q es, q.toList.take c.length = c
      ∧ drive (chunkActs c ++ rest) s = drive rest (endChunk (readerAt q c.length es s)) := by
  by_cases short : c.length < 4
  · obtain ⟨q, es, hq, hd⟩ := drive_bytes (.silence :: rest) c w (by omega)
    rw [hn, Nat.zero_add] at hq hd
    refine ⟨q, es, by simpa using hq, ?_⟩
    rw [chunkActs, if_pos short, List.append_assoc]
    exact hd.trans (drive_silence (s := readerAt q c.length es s) rest w.reading short rfl)
  · match c, show c.length = 4 by omega with
    | [c0, c1, c2, c3], _ =>
      exact ⟨⟨c0, c1, c2, c3⟩, _, rfl,
        drive_chunk (s := s) ⟨c0, c1, c2, c3⟩ rest w.reading hn w.empty w.isOpen w.usable⟩

/-! ## The read loop (R183) -/

/-- HOST's exchange that has failed comes to its end with the error. -/
theorem drive_failed {s : State} {e : Error} (rest : List LineAct) (hx : s.xs = .pace) (hb : isBetween s.cop = false)
    (he : s.xres = .err e) (hs : s.ss ≠ .exch) :
    drive rest s = { s with xs := .idle, ps := .idle, cop := .none, hostPort := .err e,
                            ev := s.ev ++ [.wait .pace s.params.tPaceMs], lineIn := rest } := by
  have ended := xPace_err hb he hs
  rw [drive_pace rest hx (by rw [ended]; exact ownerStep_idle rfl rfl) (by simp [ended]), ended]

/-- HOST's raw exchange that has succeeded comes to its end with the frame. -/
theorem drive_succeeded {s : State} (rest : List LineAct) (hx : s.xs = .pace) (hc : s.cop = .raw) (hv : s.xres = .ok)
    (hs : s.ss ≠ .exch) :
    drive rest s = { s with xs := .idle, ps := .idle, cop := .none, hostPort := .ok (.frame (decodeQuad s.rxf)),
                            ev := s.ev ++ [.wait .pace s.params.tPaceMs], lineIn := rest } := by
  have ended := xPace_raw hc hv hs
  rw [drive_pace rest hx (by rw [ended]; exact ownerStep_idle rfl rfl) (by simp [ended]), ended]

/-- What the verdict of RESYNC says about the state `t` that the read loop of a raw exchange has come to, RXF and XRES
having been `rxf` and `xres` (R183, R179 to R182). -/
def ReadLoopAt (t : State) (rxf : Quad) (xres : Verdict) (r : ResyncResult) : Prop :=
  match r with
  | .reading d => t.xs = .read ∧ t.cn = 0 ∧ t.disc = d ∧ t.rxf = rxf ∧ t.xres = xres ∧ t.cop = .raw
  | .ok q d => t.xs = .idle ∧ t.disc = d ∧ t.rxf = q ∧ t.xres = .ok ∧ t.cop = .none
      ∧ t.hostPort = .ok (.frame (decodeQuad q))
  | .fail e d => t.xs = .idle ∧ t.disc = d ∧ t.xres = .err e ∧ t.cop = .none ∧ t.hostPort = .err e
      ∧ (e.cause ≠ .csum → t.rxf = rxf)

/-- A raw exchange of HOST's at the start of a chunk read. -/
structure RawReader (s : State) : Prop where
  waiting : Waiting s
  start : s.cn = 0
  raw : s.cop = .raw
  host : s.ss ≠ .exch

/-- A failing verdict on a chunk is the verdict of the operation. -/
theorem readLoopAt_fail {s u : State} {e : Error} {rxf : Quad} {xres : Verdict} (rest : List LineAct) (r : RawReader s)
    (hu : u.xs = .pace ∧ u.xres = .err e ∧ u.cop = s.cop ∧ u.ss = s.ss ∧ u.disc = s.disc)
    (hf : e.cause ≠ .csum → u.rxf = rxf) : ReadLoopAt (drive rest u) rxf xres (.fail e s.disc) := by
  obtain ⟨hx, he, hc, hs, hd⟩ := hu
  rw [drive_failed rest hx (by rw [hc, r.raw]; rfl) he (by rw [hs]; exact r.host)]
  exact ⟨rfl, hd, he, rfl, rfl, hf⟩

/-- A chunk that is accepted is the response of the operation. -/
theorem readLoopAt_ok {s u : State} {rxf : Quad} {xres : Verdict} (rest : List LineAct) (r : RawReader s)
    (hu : u.xs = .pace ∧ u.xres = .ok ∧ u.cop = s.cop ∧ u.ss = s.ss ∧ u.disc = s.disc) :
    ReadLoopAt (drive rest u) rxf xres (.ok u.rxf s.disc) := by
  obtain ⟨hx, hv, hc, hs, hd⟩ := hu
  rw [drive_succeeded rest hx (by rw [hc, r.raw]) hv (by rw [hs]; exact r.host)]
  exact ⟨rfl, hd, rfl, hv, rfl, rfl⟩

/-- The read loop of raw COMMUNICATE computes RESYNC: chunk after chunk, the evaluation of what has been read is the
equation of RESYNC for that chunk. -/
theorem drive_resync : ∀ (cs : List (List Byte)) {s : State}, RawReader s → (∀ c ∈ cs, c.length ≤ 4) →
    ReadLoopAt (drive (cs.flatMap chunkActs) s) s.rxf s.xres (resync s.csumVerify s.maxDiscard s.disc cs) := by
  intro cs
  induction cs with
  | nil =>
    intro s r _
    have stays : drive [] s = { s with lineIn := [] } := by
      rw [drive, advance_of_none (ownerStep_waiting r.waiting.reading r.waiting.empty)]
    rw [List.flatMap_nil, stays]
    exact ⟨r.waiting.reading, r.start, rfl, rfl, rfl, r.raw⟩
  | cons c cs ih =>
    intro s r hl
    obtain ⟨q, es, hq, hd⟩ := drive_chunkActs c (cs.flatMap chunkActs) r.waiting r.start (hl c (.head cs))
    rw [List.flatMap_cons, hd]
    cases c with
    | nil =>
      rw [resync_of_empty, endChunk_of_empty rfl]
      exact readLoopAt_fail _ r ⟨rfl, rfl, rfl, rfl, rfl⟩ fun _ => rfl
    | cons c0 tail =>
      have head : q.b0 = c0 := (List.cons.inj hq).1
      have nonempty : 0 < (readerAt q (c0 :: tail).length es s).cn := Nat.succ_pos _
      subst head
      rcases Nat.lt_or_ge q.b0.toNat 0xF0 with garbage | candidate
      · by_cases hm : s.maxDiscard = some s.disc
        · rw [endChunk_of_desync nonempty garbage hm, hm, resync_of_desync garbage]
          exact readLoopAt_fail _ r ⟨rfl, rfl, rfl, rfl, rfl⟩ fun _ => rfl
        · rw [endChunk_of_garbage nonempty garbage hm, resync_of_garbage garbage hm]
          exact ih ⟨⟨r.waiting.reading, rfl, r.waiting.isOpen, r.waiting.usable⟩, rfl, r.raw, r.host⟩
            fun x hx => hl x (.tail _ hx)
      · rcases Nat.lt_or_ge tail.length 3 with short | full
        · rw [endChunk_of_short nonempty (Nat.succ_lt_succ short) candidate, resync_of_short candidate short]
          exact readLoopAt_fail _ r ⟨rfl, rfl, rfl, rfl, rfl⟩ fun _ => rfl
        · have four := hl (q.b0 :: tail) (.head cs)
          match tail, show tail.length = 3 by simp at four; omega with
          | [c1, c2, c3], _ =>
            have bytes : q = ⟨q.b0, c1, c2, c3⟩ := by
              injection hq with _ h1
              injection h1 with h1 h2
              injection h2 with h2 h3
              injection h3 with h3 _
              rw [← h1, ← h2, ← h3]
            rw [resync_of_full candidate, ← bytes]
            by_cases hk : checkPasses s q
            · rw [if_neg (by simpa using checkPasses_iff.mp hk), endChunk_of_pass (by rfl) candidate hk]
              exact readLoopAt_ok _ r ⟨rfl, rfl, rfl, rfl, rfl⟩
            · rw [if_pos (by simpa using mt checkPasses_iff.mpr hk), endChunk_of_csum (by rfl) candidate hk]
              exact readLoopAt_fail _ r ⟨rfl, rfl, rfl, rfl, rfl⟩ fun h => absurd rfl h

/-- Settles O20. -/
theorem resyncIsTheReadLoop : Obligations.ResyncIsTheReadLoop := by
  intro s cs hx hn hr hc hs ho hu hl
  exact ⟨_, rfl, drive_resync cs ⟨⟨hx, hr, ho, hu⟩, hn, hc, hs⟩ hl⟩

end Sys2Proof.Machine

namespace Sys2Proof.Machine

/-! ## The first step of a direct operation (R171, R200) -/

/-- The five client operations with operands in range, each with the operation that owns its first exchange and the
frame that it sends (R203 to R208). -/
def clientFrames (card index : Int) (v : RelayVec) : List (Instr × ClientOp × Quad) :=
  [(.setall card v, .setall, requestQuad 3 (byteOfInt card) (pack v)),
    (.query card, .query, requestQuad 2 (byteOfInt card) 0),
    (.enable card index, .enable, requestQuad 6 (byteOfInt card) ((1 : Byte) <<< index.toNat)),
    (.disable card index, .disable, requestQuad 7 (byteOfInt card) ((1 : Byte) <<< index.toNat)),
    (.pulse card, .pulseQuery (byteOfInt card), requestQuad 2 (byteOfInt card) 0)]

/-- A client operation with its frame in TXF, before the start step (R200 (2)). -/
def clientLoaded (q : Quad) (s : State) : State := { s with txf := q, txfWritten := true, ps := .busy }

theorem withCard_of_byte {card : Int} (h : 0 ≤ card ∧ card ≤ 255) (k : Byte → State → State) (s : State) :
    withCard card k s = k (byteOfInt card) s :=
  if_pos (byteInRange_iff.mpr h)

theorem withIndex_of_index {index : Int} (h : 0 ≤ index ∧ index ≤ 7) (k : Byte → State → State) (s : State) :
    withIndex index k s = k ((1 : Byte) <<< index.toNat) s := by
  have mask : pack (oneHot index.toNat) = (1 : Byte) <<< index.toNat :=
    pack_oneHot ⟨index.toNat, by omega⟩
  rw [withIndex, if_pos (indexInRange_iff.mpr h), mask]

/-- A client operation whose operands are in range loads its frame and starts its first exchange. -/
theorem exec_client {card index : Int} {v : RelayVec} {s : State} (hcard : 0 ≤ card ∧ card ≤ 255)
    (hindex : 0 ≤ index ∧ index ≤ 7) (hr : hostReady s) {i : Instr} {op : ClientOp} {q : Quad}
    (h : (i, op, q) ∈ clientFrames card index v) :
    isBetween op = false ∧ exec i s = .next (driveOp (startExchange op (clientLoaded q s))) := by
  have run : ∀ r u, requestCodeOk r s = true → startRequest r s = u → runRequest r s = .next (driveOp u) := by
    intro r u hc hu
    rw [runRequest, issueRequest_ready hr.1 hr.2 hc, hu]
    rfl
  have byCard : ∀ (op : ClientOp) (c d : Byte),
      withCard card (fun a => sendFrame op c a d) s
        = startExchange op (clientLoaded (requestQuad c (byteOfInt card) d) s) := fun _ _ _ =>
    withCard_of_byte hcard _ s
  have byIndex : ∀ (op : ClientOp) (c : Byte),
      withCard card (fun a => withIndex index (sendFrame op c a)) s
        = startExchange op (clientLoaded (requestQuad c (byteOfInt card) ((1 : Byte) <<< index.toNat)) s) := fun _ _ =>
    (withCard_of_byte hcard _ s).trans (withIndex_of_index hindex _ s)
  simp only [clientFrames, List.mem_cons, Prod.mk.injEq, List.not_mem_nil, or_false] at h
  rcases h with ⟨rfl, rfl, rfl⟩ | ⟨rfl, rfl, rfl⟩ | ⟨rfl, rfl, rfl⟩ | ⟨rfl, rfl, rfl⟩ | ⟨rfl, rfl, rfl⟩
  · exact ⟨rfl, run (.setall card v) _ rfl (byCard .setall 3 (pack v))⟩
  · exact ⟨rfl, run (.query card) _ rfl (byCard .query 2 0)⟩
  · exact ⟨rfl, run (.enable card index) _ rfl (byIndex .enable 6)⟩
  · exact ⟨rfl, run (.disable card index) _ rfl (byIndex .disable 7)⟩
  · exact ⟨rfl, run (.pulse card) _ rfl (byCard (.pulseQuery _) 2 0)⟩

/-- The request of raw COMMUNICATE is `q`, and `n` free values have then been drawn: TXF where it has been written, and
else the next free value (log 7). -/
def Sends (s : State) (q : Quad) (n : Nat) : Prop :=
  s.txfWritten = true ∧ q = s.txf ∧ n = s.drawn ∨ s.txfWritten = false ∧ q = anyQuad s.drawn ∧ n = s.drawn + 1

theorem Sends.rawRequest {s : State} {q : Quad} {n : Nat} (h : Sends s q n) : rawRequest s = q := by
  rcases h with ⟨hw, rfl, -⟩ | ⟨hw, rfl, -⟩ <;> simp [Machine.rawRequest, quadView, hw]

theorem Sends.takeRequest {s : State} {q : Quad} {n : Nat} (h : Sends s q n) :
    takeRequest s = { s with txf := q, txfWritten := true, drawn := n } := by
  have draws : rawDraws s = n := by
    rcases h with ⟨hw, -, rfl⟩ | ⟨hw, -, rfl⟩ <;> simp [rawDraws, hw]
  rw [Machine.takeRequest, h.rawRequest, draws]
  rfl

/-- With HOST ready, raw COMMUNICATE on an open transport takes its request, whose command byte is a request code, and
is its exchange, driven. -/
theorem exec_communicate_of_open {s : State} {q : Quad} {n : Nat} (hr : hostReady s) (ho : s.isOpen = true)
    (h : Sends s q n) (hb : q.b0.toNat ≤ 8) :
    exec .communicate s =
      .next (driveOp (started .raw { s with txf := q, txfWritten := true, drawn := n })) := by
  have codeOk : requestCodeOk .communicate s = true := by simp [requestCodeOk, h.rawRequest, hb]
  have begun : startRequest .communicate s = started .raw (takeRequest s) := startRaw_open ho (hostReady_idle hr).1
  show runRequest .communicate s = _
  rw [runRequest, issueRequest_ready hr.1 hr.2 codeOk, begun, h.takeRequest]
  rfl

/-- Raw COMMUNICATE is refused when the command byte of what it would send is no request code (R100, R172). -/
theorem exec_communicate_of_code {s : State} {q : Quad} {n : Nat} (hr : hostReady s) (ho : s.isOpen = true)
    (h : Sends s q n) (hb : ¬ q.b0.toNat ≤ 8) : exec .communicate s = .refused .requestCode := by
  have codeBad : requestCodeOk .communicate s = false := by simp [requestCodeOk, h.rawRequest, ho, hb]
  show runRequest .communicate s = _
  simp [runRequest, issueRequest, hr.1, hr.2, codeBad, andThen]

/-- Settles O22: either way of taking the request, the exchange is `driveOp_raw`. -/
theorem communicateCompletes : Obligations.CommunicateCompletes := by
  intro c rest s sent hr ho hu hc hk hl hsent
  have completes : ∀ q n, Sends s q n → q.b0.toNat ≤ 8 →
      exec .communicate s = .next { sent q with drawn := n } := by
    intro q n h hb
    rw [exec_communicate_of_open hr ho h hb,
      driveOp_raw (s := { s with txf := q, txfWritten := true, drawn := n }) c rest (hostReady_idle hr).1 ho rfl hu hc
        hk hl, hsent]
    rfl
  refine ⟨fun hw hb => ?_, fun hw => ?_⟩
  · rw [completes s.txf s.drawn (.inl ⟨hw, rfl, rfl⟩) hb, hsent]
    rfl
  · have free : Sends s (anyQuad s.drawn) (s.drawn + 1) := .inr ⟨hw, rfl, rfl⟩
    split
    · exact completes _ _ free ‹_›
    · exact exec_communicate_of_code hr ho free ‹_›

/-! ## An exchange that fails (R179, R182) -/

/-- An exchange that the line does not answer (R179, R72). -/
theorem driveOp_silent {s : State} {op : ClientOp} (rest : List LineAct) (hb : isBetween op = false)
    (hs : s.ss ≠ .exch) (hl : s.lineIn = .silence :: rest) :
    driveOp (started op s) =
      { s with cn := 0, disc := 0, xres := .err (errConnTrunc 0), rxb := [], txb := [], xs := .idle, ps := .idle,
               cop := .none, lineIn := rest, hostPort := .err (errConnTrunc 0),
               ev := s.ev ++ silentEvents s.params s.txf } := by
  rw [driveOp_silence (s := started op s) rest rfl hl, endChunk_of_empty (by rfl)]
  refine Eq.trans (drive_failed rest rfl hb rfl hs) ?_
  simp [requested, started, silentEvents]

/-- An exchange that the line answers with a candidate whose checksum byte is wrong, CSUM_VERIFY being set (R182). -/
theorem driveOp_badChecksum {s : State} {op : ClientOp} (c : Quad) (rest : List LineAct) (hb : isBetween op = false)
    (hs : s.ss ≠ .exch) (ho : s.isOpen = true) (hw : s.txfWritten = true) (hu : rxbUsable s)
    (hc : 0xF0 ≤ c.b0.toNat) (hk : ¬ checkPasses s c) (hl : s.lineIn = quadActs c ++ rest) :
    driveOp (started op s) =
      { exchanged s.txf c s with xres := .err (errCsum c), hostPort := .err (errCsum c), lineIn := rest } := by
  have acts : (started op s).lineIn = quadActs c ++ rest := hl
  rw [driveOp, acts, drive_flush (by rfl), drive_chunk (s := requested (started op s)) c rest rfl rfl rfl ho hu,
    endChunk_of_csum (s := chunkTaken c (requested (started op s))) rfl hc hk]
  refine Eq.trans (drive_failed rest rfl hb rfl hs) ?_
  simp [chunkTaken, requested, started, exchanged, exchangeEvents, Quad.toList, hw]

/-- Settles O25: raw COMMUNICATE and QUERY are each their one exchange, which fails by its checksum. -/
theorem badChecksumFails : Obligations.BadChecksumFails := by
  intro card c rest s e hr ho hu hc hv hk hl he
  obtain ⟨hs, -, -⟩ := hostReady_idle hr
  have fails : ¬ checkPasses s c := by simp [checkPasses, hv, hk]
  have error : e = errCsum c := he
  subst error
  refine ⟨fun q n h hb => ?_, fun low high => ?_⟩
  · rw [exec_communicate_of_open hr ho h hb,
      driveOp_badChecksum (s := { s with txf := q, txfWritten := true, drawn := n }) c rest rfl hs ho rfl hu hc fails
        hl]
    rfl
  · obtain ⟨-, sent⟩ := exec_client (index := 0) (v := unpack 0) ⟨low, high⟩ (by decide) hr
      (i := .query card) (op := .query) (q := requestQuad 2 (byteOfInt card) 0) (by simp [clientFrames])
    rw [sent, startExchange_open (s := clientLoaded _ s) .query ho hs,
      driveOp_badChecksum (s := clientLoaded (requestQuad 2 (byteOfInt card) 0) s) c rest rfl hs ho rfl hu hc fails hl]
    rfl

/-- Settles O26: the first exchange of each of the six operations is not answered, and ends the operation. -/
theorem noAnswerFails : Obligations.NoAnswerFails := by
  intro card index v rest s e gone clow chigh ilow ihigh hr ho hl he hgone
  obtain ⟨hs, hx, hp⟩ := hostReady_idle hr
  subst he
  have client : ∀ i op q, (i, op, q) ∈ clientFrames card index v → exec i s = .next (gone q) := by
    intro i op q h
    obtain ⟨hb, sent⟩ := exec_client ⟨clow, chigh⟩ ⟨ilow, ihigh⟩ hr h
    rw [sent, startExchange_open (s := clientLoaded q s) op ho hs,
      driveOp_silent (s := clientLoaded q s) rest hb hs hl, hgone]
    simp [clientLoaded, silentEvents, errConnTrunc, hx, hp]
  refine ⟨fun q n h hb => ?_, client _ .setall _ ?_, client _ .query _ ?_, client _ .enable _ ?_,
    client _ .disable _ ?_, client _ (.pulseQuery (byteOfInt card)) _ ?_⟩
  · rw [exec_communicate_of_open hr ho h hb,
      driveOp_silent (s := { s with txf := q, txfWritten := true, drawn := n }) rest rfl hs hl, hgone]
    simp [silentEvents, errConnTrunc, hx, hp]
  all_goals simp [clientFrames, byteOfInt]

/-! ## A closed transport (R171, R172, R202) -/

/-- The start step on a closed transport (R172). -/
theorem startExchange_closed {s : State} (op : ClientOp) (ho : s.isOpen = false) (hs : s.ss ≠ .exch) :
    startExchange op s = { s with ps := .idle, cop := .none, hostPort := .err errConnClosed } := by
  simp [startExchange, ho, opFail, raise, clientAsker, hs, endOp]

/-- With no operation in progress there is nothing to drive. -/
theorem driveOp_ended {s : State} (hx : s.xs = .idle) (hc : s.cop = .none) : driveOp s = s := by
  have stays : advance s = s := advance_of_none (ownerStep_idle hx hc)
  rw [driveOp, drive_done (by rw [stays]; simp [hx]), stays]

/-- An operation whose start step finds the transport closed is over. -/
theorem driveOp_closed {s : State} (op : ClientOp) (ho : s.isOpen = false) (hs : s.ss ≠ .exch) (hx : s.xs = .idle) :
    driveOp (startExchange op s) = { s with ps := .idle, cop := .none, hostPort := .err errConnClosed } := by
  rw [startExchange_closed op ho hs]
  exact driveOp_ended hx rfl

/-- Raw COMMUNICATE on a closed transport: a TXF that has been written must hold a request code (R172), and one that
has not is not looked at (log 7). -/
theorem runRequest_communicate_closed {s : State} (hr : hostReady s) (ho : s.isOpen = false)
    (hb : s.txfWritten = true → s.txf.b0.toNat ≤ 8) :
    runRequest .communicate s = .next { s with cop := .none, hostPort := .err errConnClosed } := by
  obtain ⟨hs, hx, hp⟩ := hostReady_idle hr
  have codeOk : requestCodeOk .communicate s = true := by
    cases hw : s.txfWritten with
    | false => simp [requestCodeOk, hw, ho]
    | true => simp [requestCodeOk, rawRequest, quadView, hw, hb hw]
  have begun : startRequest .communicate s = startExchange .raw s := by simp [startRequest, startRaw, ho]
  rw [runRequest, issueRequest_ready hr.1 hr.2 codeOk, begun]
  show Host.Outcome.next (driveOp (startExchange .raw s)) = _
  rw [driveOp_closed .raw ho hs hx, hp]

/-- Settles O27: every start step finds the transport closed. -/
theorem closedTransportFails : Obligations.ClosedTransportFails := by
  intro card index v a d x s shut clow chigh ilow ihigh hr ho hshut
  obtain ⟨hs, hx, hp⟩ := hostReady_idle hr
  have client : ∀ i op q, (i, op, q) ∈ clientFrames card index v → exec i s = .next (shut q) := by
    intro i op q h
    obtain ⟨-, sent⟩ := exec_client ⟨clow, chigh⟩ ⟨ilow, ihigh⟩ hr h
    rw [sent, driveOp_closed (s := clientLoaded q s) op ho hs hx, hshut]
    simp [clientLoaded, errConnClosed, hp]
  refine ⟨fun hb => runRequest_communicate_closed hr ho hb, client _ .setall _ ?_, client _ .query _ ?_,
    client _ .enable _ ?_, client _ .disable _ ?_, client _ (.pulseQuery (byteOfInt card)) _ ?_, fun k i h => ?_⟩
  case refine_6 =>
    obtain ⟨code, sent⟩ := exec_of_request (x := x) h s
    rw [sent, requestFrame_ready hr, runRequest_communicate_closed (s := loadTxf k a d s) hr ho (fun _ => code), hshut]
    rfl
  all_goals simp [clientFrames, byteOfInt]

end Sys2Proof.Machine

namespace Sys2Proof.Machine

/-! ## A whole operation as a run of atomic steps (R171 to R184, log 3) -/

theorem runAgents_append (as bs : List AgentStep) :
    ∀ s : State, runAgents (as ++ bs) s = (runAgents as s).bind (runAgents bs) := by
  induction as with
  | nil => intro s; rfl
  | cons a as ih =>
    intro s
    rw [List.cons_append, runAgents, runAgents]
    split
    · exact ih _
    · rfl
    · rfl

/-- `t` is where some atomic steps of HOST as the owner, of LINE and of TIMER lead from `s`. -/
def ExchangeSteps (s t : State) : Prop :=
  ∃ as : List AgentStep, (∀ a ∈ as, isExchangeStep a = true) ∧ runAgents as s = some t

theorem ExchangeSteps.refl (s : State) : ExchangeSteps s s := ⟨[], nofun, rfl⟩

theorem ExchangeSteps.trans {s t u : State} (h : ExchangeSteps s t) (h' : ExchangeSteps t u) : ExchangeSteps s u := by
  obtain ⟨as, ha, hs⟩ := h
  obtain ⟨bs, hb, ht⟩ := h'
  refine ⟨as ++ bs, fun a hm => (List.mem_append.mp hm).elim (ha a) (hb a), ?_⟩
  rw [runAgents_append, hs]
  exact ht

theorem ExchangeSteps.single {s t : State} (a : AgentStep) (ha : isExchangeStep a = true)
    (h : agentStep a s = .next t) : ExchangeSteps s t :=
  ⟨[a], by simpa using ha, by simp [runAgents, h]⟩

theorem opFail_ss {e : Error} {s : State} (h : s.ss ≠ .exch) : (opFail e s).ss = s.ss := by
  simp [opFail, clientAsker, h, raise, endOp]

theorem opDone_ss {v : PortValue} {s : State} (h : s.ss ≠ .exch) : (opDone v s).ss = s.ss := by
  simp [opDone, clientAsker, h, complete, endOp]

theorem startExchange_ss {op : ClientOp} {s : State} (h : s.ss ≠ .exch) : (startExchange op s).ss = s.ss := by
  unfold startExchange
  split
  · unfold markBusy
    split <;> rfl
  · exact opFail_ss h

theorem afterExchange_ss {c : Byte} {k : State → State} {s : State} (h : s.ss ≠ .exch) (hk : (k s).ss = s.ss) :
    (afterExchange c k s).ss = s.ss := by
  rcases afterExchange_cases c k s with ⟨-, he⟩ | ⟨e, he⟩ | he <;> rw [he]
  · exact opFail_ss h
  · exact hk

theorem opReturn_ss {s : State} (h : s.ss ≠ .exch) : (opReturn s).ss = s.ss := by
  unfold opReturn
  split
  case h_1 | h_8 | h_10 | h_11 => rfl
  case h_2 =>
    unfold afterRaw
    split
    · rfl
    · exact opFail_ss h
    · exact opDone_ss h
  case h_3 | h_4 | h_5 | h_6 | h_12 => exact afterExchange_ss h (opDone_ss h)
  case h_7 | h_9 => exact afterExchange_ss h rfl

theorem endChunk_ss (s : State) : (endChunk s).ss = s.ss := by
  rcases endChunk_cases s with ⟨e, he⟩ | ⟨v, -, he⟩ | ⟨-, he⟩ <;> rw [he] <;> rfl

theorem xTake_ss (b : Byte) (rest : List Byte) (s : State) : (xTake b rest s).ss = s.ss := by
  unfold xTake
  dsimp only
  split
  · exact endChunk_ss (takeByte b rest s)
  · rfl

/-- An operation of HOST's leaves SWITCHER where it is (R290). -/
theorem ownerStep_ss {s t : State} (hs : s.ss ≠ .exch) (h : ownerStep s = some t) : t.ss = s.ss := by
  rcases ownerStep_cases h with ⟨-, rfl⟩ | ⟨-, rfl⟩ | ⟨b, rest, -, -, -, rfl⟩ | ⟨-, rfl⟩ | ⟨card, -, -, rfl⟩ |
    ⟨card, -, -, rfl⟩ | ⟨card, -, -, rfl⟩
  · rfl
  · rfl
  · exact xTake_ss b rest s
  · exact opReturn_ss (s := { emit (.wait .pace s.params.tPaceMs) s with xs := .idle }) hs
  · exact startExchange_ss (s := loadTxf _ _ _ { s with pv := _, ps := .busy }) hs
  · rfl
  · exact startExchange_ss (s := loadTxf _ _ _ { s with pv := _, ps := .busy }) hs

/-- What leaves alone all that an exchange does not write leaves `lineIn` alone. -/
theorem lineIn_of_outsideExchange {s t : State} (h : outsideExchange t = outsideExchange s) : t.lineIn = s.lineIn := by
  have same : (outsideExchange t).lineIn = (outsideExchange s).lineIn := by rw [h]
  exact same

/-- `t` comes from `s` by steps of the exchange, which leave SWITCHER and the queue of LINE's and TIMER's acts alone. -/
structure DrivenTo (s t : State) : Prop where
  steps : ExchangeSteps s t
  ss : t.ss = s.ss
  lineIn : t.lineIn = s.lineIn

theorem DrivenTo.trans {s t u : State} (h : DrivenTo s t) (h' : DrivenTo t u) : DrivenTo s u :=
  ⟨h.steps.trans h'.steps, h'.ss.trans h.ss, h'.lineIn.trans h.lineIn⟩

theorem DrivenTo.own {s t : State} (hs : s.ss ≠ .exch) (h : ownerStep s = some t) : DrivenTo s t where
  steps := .single .own rfl (by simp [agentStep, ownStep, hs, h])
  ss := ownerStep_ss hs h
  lineIn := lineIn_of_outsideExchange (outsideExchange_ownerStep h)

/-- The acts of LINE and TIMER are steps of theirs. -/
theorem DrivenTo.act (a : LineAct) (s : State) : DrivenTo s (lineAct a s) := by
  cases a with
  | arrive b =>
    refine ⟨.single (.arrive b) rfl rfl, ?_, ?_⟩ <;>
      rcases rxArrive_cases b s with ⟨-, -, he⟩ | ⟨-, he⟩ <;> rw [lineAct, he]
  | silence =>
    refine ⟨.single .readTimeout rfl rfl, ?_, ?_⟩ <;> rw [lineAct] <;> unfold readTimeout <;> split
    · exact endChunk_ss s
    · rfl
    · exact lineIn_of_outsideExchange (outsideExchange_endChunk s)
    · rfl

/-- Running HOST's operation until it waits is a run of its steps. -/
theorem drivenTo_advance {s : State} (hs : s.ss ≠ .exch) : DrivenTo s (advance s) :=
  runOwner_keeps (P := DrivenTo s) (fun _ _ h ho => h.trans (.own (by rw [h.ss]; exact hs) ho)) _ s
    ⟨.refl s, rfl, rfl⟩

/-- Driving HOST's operation is a run of steps of its owner, of LINE and of TIMER, but for `lineIn`. -/
theorem exchangeSteps_drive : ∀ (acts : List LineAct) {s : State}, s.ss ≠ .exch →
    ExchangeSteps s { drive acts s with lineIn := s.lineIn } := by
  intro acts
  induction acts with
  | nil =>
    intro s hs
    have advanced := drivenTo_advance hs
    have same : { drive [] s with lineIn := s.lineIn } = advance s := by rw [drive, ← advanced.lineIn]
    rw [same]
    exact advanced.steps
  | cons a rest ih =>
    intro s hs
    have advanced := drivenTo_advance hs
    unfold drive
    dsimp only
    split
    · have acted := advanced.trans (.act a (advance s))
      have others := ih (s := lineAct a (advance s)) (by rw [acted.ss]; exact hs)
      rw [acted.lineIn] at others
      exact acted.steps.trans others
    · rw [← advanced.lineIn]
      exact advanced.steps

/-- The first step of a direct operation changes neither SWITCHER nor `lineIn`. -/
theorem startRequest_keeps {s : State} (hs : s.ss ≠ .exch) (r : ClientRequest) :
    (startRequest r s).ss = s.ss ∧ (startRequest r s).lineIn = s.lineIn := by
  have start : ∀ op (u : State), u.ss = s.ss → u.lineIn = s.lineIn →
      (startExchange op u).ss = s.ss ∧ (startExchange op u).lineIn = s.lineIn := fun op u hu hl =>
    ⟨(startExchange_ss (by rw [hu]; exact hs)).trans hu,
      (lineIn_of_outsideExchange (outsideExchange_startExchange op u)).trans hl⟩
  rcases startRequest_cases r s with ⟨e, he⟩ | he | ⟨op, c, a, d, -, -, he⟩ <;> rw [he]
  · exact ⟨rfl, rfl⟩
  · unfold startRaw
    split
    · exact start .raw (takeRequest s) rfl rfl
    · exact start .raw s rfl rfl
  · exact start op (loadTxf c a d { s with ps := .busy }) rfl rfl

/-- Settles O57: the first step is `issue`, and the rest of the operation is driven. -/
theorem wholeOperationIsItsSteps : Obligations.WholeOperationIsItsSteps := by
  intro r s t h
  obtain ⟨u, hu, rfl⟩ := runRequest_next h
  obtain ⟨hh, hi, -, rfl⟩ := issueRequest_next hu
  have host := (hostReady_idle ⟨hh, hi⟩).1
  obtain ⟨hss, hline⟩ := startRequest_keeps host r
  obtain ⟨as, hall, hrun⟩ :=
    exchangeSteps_drive (startRequest r s).lineIn (s := startRequest r s) (by rw [hss]; exact host)
  have issued : agentStep (.issue r) s = .next (startRequest r s) := hu
  rw [hline] at hrun
  exact ⟨as, hall, by rw [runAgents, issued]; exact hrun.trans (by rw [driveOp, hline])⟩

end Sys2Proof.Machine

namespace Sys2Proof.Machine

/-! ## An endless resynchronisation (R185, R329)

The run offers the steps of the machine in turns. In the reader's turn a byte arrives at an empty RXB, or the owner
takes the byte that is there; the first byte of every chunk is 0, so every chunk is garbage. The other turns belong to
DISPLAY, the front end and SYNC, which touch nothing that the reader looks at. -/

/-! ### What the reader looks at -/

/-- The part of the state that an exchange reading garbage depends on, and SWITCHER's place. -/
structure ReaderView where
  xs : XState
  ss : SState
  isOpen : Bool
  rxbDepth : Option Nat
  maxDiscard : Option Nat
  cn : Nat
  rxb : List Byte
  ch : Quad
  disc : Nat

def readerView (s : State) : ReaderView :=
  { xs := s.xs, ss := s.ss, isOpen := s.isOpen, rxbDepth := s.params.rxbDepth, maxDiscard := s.maxDiscard, cn := s.cn
    rxb := s.rxb, ch := s.ch, disc := s.disc }

/-- The exchange is reading a chunk of garbage, SWITCHER being in state `x`. -/
structure Resyncing (x : SState) (v : ReaderView) : Prop where
  reading : v.xs = .read
  ss : v.ss = x
  isOpen : v.isOpen = true
  usable : hasRoom v.rxbDepth 0 1 = true
  unbounded : v.maxDiscard = none
  cn_lt : v.cn < 4
  /-- RXB holds at most one byte, and the first byte of a chunk is 0. -/
  rxb : v.rxb = [] ∨ ∃ b, v.rxb = [b] ∧ (v.cn = 0 → b = 0)
  garbage : 0 < v.cn → v.ch.b0.toNat < 0xF0

/-- How many turns of the reader lie behind: two for every byte, eight for every discarded chunk. -/
def readerCount (v : ReaderView) : Nat := 8 * v.disc + 2 * v.cn + v.rxb.length

/-! ### The reader's turn -/

/-- The byte that arrives in the reader's turn. Inside a chunk it goes by DISC, so that every byte comes again and
again. -/
def garbageByte (s : State) : Byte := if s.cn = 0 then 0 else BitVec.ofNat 8 s.disc

/-- The reader's turn: the byte in RXB is taken by the owner of the exchange, or a byte arrives. -/
def readerTurn (s : State) : AgentStep :=
  if s.rxb = [] then .arrive (garbageByte s)
  else if s.ss = .exch then .switcher else .own

theorem putByte_b0 (q : Quad) (n : Nat) (b : Byte) : (putByte q n b).b0 = if n = 0 then b else q.b0 := by
  match n with
  | 0 | 1 | 2 | _ + 3 => rfl

/-- The reader's turn counts one, and the exchange stays at its garbage. -/
theorem readerTurn_step {x : SState} {s : State} (h : Resyncing x (readerView s)) :
    ∃ t, agentStep (readerTurn s) s = .next t ∧ Resyncing x (readerView t)
      ∧ readerCount (readerView t) = readerCount (readerView s) + 1 := by
  have hx : s.xs = .read := h.reading
  have hm : s.maxDiscard = none := h.unbounded
  have hn : s.cn < 4 := h.cn_lt
  rcases h.rxb with hr | ⟨b, hr, hb⟩
  · have empty : s.rxb = [] := hr
    have arrived : agentStep (readerTurn s) s = .next (rxArrive (garbageByte s) s) := by
      rw [readerTurn, if_pos empty]
      rfl
    rw [rxArrive_usable (garbageByte s) h.isOpen empty h.usable] at arrived
    refine ⟨_, arrived, ?_, ?_⟩
    · exact { h with rxb := .inr ⟨_, rfl, fun h0 => if_pos h0⟩ }
    · simp [readerCount, readerView, empty]
  · have one : s.rxb = [b] := hr
    have taken : agentStep (readerTurn s) s = .next (xTake b [] s) := by
      refine agentStep_owner ?_ (by simp [hx]) (ownerStep_read hx one hn)
      by_cases hs : s.ss = .exch <;> simp [readerTurn, one, hs]
    refine ⟨_, taken, ?_⟩
    rcases Nat.lt_or_ge s.cn 3 with h3 | h3
    · rw [xTake_of_lt b [] h3]
      have lead : (putByte s.ch s.cn b).b0.toNat < 0xF0 := by
        rw [putByte_b0]
        split
        · rename_i h0; rw [hb h0]; decide
        · rename_i h0; exact h.garbage (Nat.pos_of_ne_zero h0)
      have count : s.cn + 1 < 4 := by omega
      refine ⟨{ h with cn_lt := count, rxb := .inl rfl, garbage := fun _ => lead }, ?_⟩
      simp [readerCount, readerView, takeByte, emit, one]
      omega
    · have h3 : s.cn = 3 := by omega
      have lead : s.ch.b0.toNat < 0xF0 := h.garbage (by show 0 < s.cn; omega)
      rw [xTake_of_three b [] h3, endChunk_of_garbage (Nat.succ_pos 3) (by exact lead)
        (by show s.maxDiscard ≠ _; simp [hm])]
      refine ⟨{ h with cn_lt := Nat.succ_pos 3, rxb := .inl rfl, garbage := nofun }, ?_⟩
      simp [readerCount, readerView, filled, one, h3]
      omega

/-! ### The other turns -/

/-- The steps of DISPLAY, of the front end, of TIMER on DISPLAY and of SYNC. -/
def isSideStep (a : AgentStep) : Bool :=
  match a with
  | .display | .frontEnd | .pollDp | .syncReqW _ | .syncReqR _ | .syncResW _ | .syncResR _ | .sampleIntr _ => true
  | _ => false

theorem readerView_dpStep {s t : State} (h : dpStep s = some t) : readerView t = readerView s := by
  rcases dpStep_cases h with ⟨-, rfl⟩ | ⟨v, -, -, rfl⟩
  · unfold dpTop
    split <;> rfl
  · rfl

theorem readerView_feRetry (s : State) : readerView (feRetry s) = readerView s := by
  rcases feRetry_cases s with he | ⟨r, rest, t, -, hp, he⟩ <;> rw [he]
  obtain ⟨-, rfl⟩ := fePush_some hp
  rw [pushAll_eq]
  rfl

/-- A side step is never refused, and the reader does not notice it. -/
theorem sideStep_step {a : AgentStep} (ha : isSideStep a = true) (s : State) :
    ∃ t, agentStep a s = .next t ∧ readerView t = readerView s := by
  cases a with
  | display =>
    refine ⟨_, rfl, ?_⟩
    cases hd : dpStep s with
    | none => rfl
    | some t => exact readerView_dpStep hd
  | frontEnd => exact ⟨_, rfl, readerView_feRetry s⟩
  | pollDp =>
    refine ⟨_, rfl, ?_⟩
    unfold dpPoll
    split <;> rfl
  | syncReqW | syncReqR | syncResW | syncResR => exact ⟨_, rfl, rfl⟩
  | sampleIntr w => cases w <;> exact ⟨_, rfl, rfl⟩
  | issue | own | switcher | arrive | readTimeout | pollSw | driveIntr | driveLineOk | writeCsumVerify
  | writeMaxDiscard | readReg | reset => cases ha

/-- The side steps in turns; of each kind of synchroniser step every draw has its turn. -/
def sideTurn (i : Nat) : AgentStep :=
  match i with
  | 0 => .display
  | 1 => .frontEnd
  | 2 => .pollDp
  | 3 => .sampleIntr .sw
  | 4 => .sampleIntr .dp
  | j + 5 =>
    match j % 4 with
    | 0 => .syncReqW (j / 4)
    | 1 => .syncReqR (j / 4)
    | 2 => .syncResW (j / 4)
    | _ => .syncResR (j / 4)

theorem isSideStep_sideTurn (i : Nat) : isSideStep (sideTurn i) = true := by
  unfold sideTurn
  split
  case h_6 => split <;> rfl
  all_goals rfl

theorem exists_sideTurn {a : AgentStep} (ha : isSideStep a = true) : ∃ i, sideTurn i = a := by
  have draw : ∀ n r, r < 4 → (4 * n + r) % 4 = r ∧ (4 * n + r) / 4 = n := by omega
  cases a with
  | display => exact ⟨0, rfl⟩
  | frontEnd => exact ⟨1, rfl⟩
  | pollDp => exact ⟨2, rfl⟩
  | sampleIntr w => cases w with
    | sw => exact ⟨3, rfl⟩
    | dp => exact ⟨4, rfl⟩
  | syncReqW n => exact ⟨4 * n + 5, by simp [sideTurn]⟩
  | syncReqR n => exact ⟨4 * n + 1 + 5, by simp only [sideTurn, draw n 1 (by omega)]⟩
  | syncResW n => exact ⟨4 * n + 2 + 5, by simp only [sideTurn, draw n 2 (by omega)]⟩
  | syncResR n => exact ⟨4 * n + 3 + 5, by simp only [sideTurn, draw n 3 (by omega)]⟩
  | issue | own | switcher | arrive | readTimeout | pollSw | driveIntr | driveLineOk | writeCsumVerify
  | writeMaxDiscard | readReg | reset => cases ha

/-! ### The run -/

/-- Turn 0 is the reader's, every other one a side step's. -/
def turn (i : Nat) (s : State) : AgentStep :=
  match i with
  | 0 => readerTurn s
  | i + 1 => sideTurn i

/-- Whose turn it is before step `k`: every turn comes again and again, two steps long. -/
def turnAt (k : Nat) : Nat := (Nat.unpair (k / 2)).1

/-- The step that is offered: DISPLAY's delivery whenever it is ready, and else the turn's. -/
def nextStep (k : Nat) (s : State) : AgentStep :=
  if s.ds = .wait ∧ (fifoHead s.resq).isSome = true then .display else turn (turnAt k) s

theorem nextStep_of_ready {k : Nat} {s : State} (h : deliverReady s) : nextStep k s = .display := if_pos h

theorem nextStep_of_not_ready {k : Nat} {s : State} (h : ¬ deliverReady s) : nextStep k s = turn (turnAt k) s :=
  if_neg h

/-- The state after a step, of a step that is not refused. -/
def stepped (a : AgentStep) (s : State) : State :=
  match agentStep a s with
  | .next t => t
  | .fault _ => s
  | .refused _ => s

theorem stepped_of_next {a : AgentStep} {s t : State} (h : agentStep a s = .next t) : stepped a s = t := by
  simp [stepped, h]

def endlessRun (s : State) (k : Nat) : State :=
  match k with
  | 0 => s
  | k + 1 => stepped (nextStep k (endlessRun s k)) (endlessRun s k)

/-- The reader has its turn before step `k`, and DISPLAY's delivery does not come first. -/
def ReaderMoves (k : Nat) (s : State) : Prop := ¬ deliverReady s ∧ turnAt k = 0

theorem ReaderMoves.nextStep {k : Nat} {s : State} (h : ReaderMoves k s) : nextStep k s = readerTurn s := by
  rw [nextStep_of_not_ready h.1, h.2, turn]

theorem isSideStep_nextStep {k : Nat} {s : State} (h : ¬ ReaderMoves k s) : isSideStep (nextStep k s) = true := by
  by_cases hd : deliverReady s
  · rw [nextStep_of_ready hd]
    rfl
  · rw [nextStep_of_not_ready hd]
    cases ht : turnAt k with
    | zero => exact absurd ⟨hd, ht⟩ h
    | succ i => exact isSideStep_sideTurn i

/-- Nothing is asked from outside. -/
theorem isFromOutside_nextStep (k : Nat) (s : State) : isFromOutside (nextStep k s) = false := by
  have side : ∀ a, isSideStep a = true → isFromOutside a = false := by
    intro a ha
    cases a with
    | issue | driveIntr | driveLineOk | writeCsumVerify | writeMaxDiscard | readReg | reset => cases ha
    | own | switcher | display | frontEnd | arrive | readTimeout | pollSw | pollDp | syncReqW | syncReqR | syncResW
    | syncResR | sampleIntr => rfl
  by_cases h : ReaderMoves k s
  · rw [h.nextStep]
    unfold readerTurn
    split
    · rfl
    · split <;> rfl
  · exact side _ (isSideStep_nextStep h)

/-- A step of the run is the machine's, keeps the exchange at its garbage, and counts where it is the reader's. -/
theorem nextStep_step {x : SState} {s : State} (k : Nat) (h : Resyncing x (readerView s)) :
    agentStep (nextStep k s) s = .next (stepped (nextStep k s) s)
      ∧ Resyncing x (readerView (stepped (nextStep k s) s))
      ∧ (ReaderMoves k s → readerCount (readerView (stepped (nextStep k s) s)) = readerCount (readerView s) + 1)
      ∧ (¬ ReaderMoves k s → readerCount (readerView (stepped (nextStep k s) s)) = readerCount (readerView s)) := by
  by_cases hm : ReaderMoves k s
  · obtain ⟨t, ht, hk, hc⟩ := readerTurn_step h
    rw [hm.nextStep, stepped_of_next ht]
    exact ⟨ht, hk, fun _ => hc, fun hn => absurd hm hn⟩
  · obtain ⟨t, ht, hv⟩ := sideStep_step (isSideStep_nextStep hm) s
    rw [stepped_of_next ht, hv]
    exact ⟨ht, h, fun hy => absurd hy hm, fun _ => rfl⟩

/-- After DISPLAY's delivery another is not ready at once. -/
theorem not_deliverReady_stepped {s : State} (h : deliverReady s) : ¬ deliverReady (stepped .display s) := by
  obtain ⟨hw, hv⟩ := h
  obtain ⟨v, hv⟩ := Option.isSome_iff_exists.mp hv
  have delivered : agentStep .display s =
      .next (emit (.notify v) { popRes v s with cur := v, curv := true, ds := .top }) := by
    simp [agentStep, dpStep, hw, dpDeliver, hv]
  rw [stepped_of_next delivered]
  exact fun hr => nomatch hr.1

/-! ### Every turn comes again and again -/

/-- Where moves that count one come again and again, and nothing else counts, every later count is one at which there
is a move. -/
theorem exists_move_at_count {f : Nat → Nat} {moves : Nat → Prop} (hm : ∀ k, moves k → f (k + 1) = f k + 1)
    (hs : ∀ k, ¬ moves k → f (k + 1) = f k) (often : ∀ n, ∃ k, n ≤ k ∧ moves k) :
    ∀ d n, ∃ k, n ≤ k ∧ moves k ∧ f k = f n + d := by
  have first : ∀ j n, moves (n + j) → ∃ k, n ≤ k ∧ moves k ∧ f k = f n := by
    intro j
    induction j with
    | zero => exact fun n h => ⟨n, Nat.le_refl n, h, rfl⟩
    | succ j ih =>
      intro n h
      by_cases hn : moves n
      · exact ⟨n, Nat.le_refl n, hn, rfl⟩
      · obtain ⟨k, hk, hmk, hf⟩ := ih (n + 1) (by rwa [Nat.add_right_comm])
        exact ⟨k, by omega, hmk, hf.trans (hs n hn)⟩
  have next : ∀ n, ∃ k, n ≤ k ∧ moves k ∧ f k = f n := by
    intro n
    obtain ⟨k, hk, hmk⟩ := often n
    exact first (k - n) n (by rwa [Nat.add_sub_cancel' hk])
  intro d
  induction d with
  | zero => exact next
  | succ d ih =>
    intro n
    obtain ⟨k, hk, hmk, hf⟩ := ih n
    obtain ⟨l, hl, hml, hfl⟩ := next (k + 1)
    exact ⟨l, by omega, hml, by rw [hfl, hm k hmk, hf]; omega⟩

/-- Every turn is taken again and again: its two steps are not both DISPLAY's deliveries. -/
theorem exists_turn (s : State) (i n : Nat) : ∃ k, n ≤ k ∧ ¬ deliverReady (endlessRun s k) ∧ turnAt k = i := by
  have late : n ≤ Nat.pair i n := Nat.right_le_pair i n
  by_cases hd : deliverReady (endlessRun s (2 * Nat.pair i n))
  · refine ⟨2 * Nat.pair i n + 1, by omega, ?_, ?_⟩
    · show ¬ deliverReady (stepped (nextStep _ _) _)
      rw [nextStep_of_ready hd]
      exact not_deliverReady_stepped hd
    · rw [turnAt, show (2 * Nat.pair i n + 1) / 2 = Nat.pair i n by omega, Nat.unpair_pair]
  · refine ⟨2 * Nat.pair i n, by omega, hd, ?_⟩
    rw [turnAt, show 2 * Nat.pair i n / 2 = Nat.pair i n by omega, Nat.unpair_pair]

/-- A side step is taken again and again. -/
theorem sideStep_taken {a : AgentStep} (ha : isSideStep a = true) (s : State) (n : Nat) :
    ∃ k, n ≤ k ∧ nextStep k (endlessRun s k) = a := by
  obtain ⟨i, rfl⟩ := exists_sideTurn ha
  obtain ⟨k, hk, hd, ht⟩ := exists_turn s (i + 1) n
  exact ⟨k, hk, by rw [nextStep_of_not_ready hd, ht, turn]⟩

section
variable {s : State} (h : Resyncing s.ss (readerView s))
include h

/-- Every state of the run is reading garbage. -/
theorem endlessRun_resyncing (k : Nat) : Resyncing s.ss (readerView (endlessRun s k)) := by
  induction k with
  | zero => exact h
  | succ k ih => exact (nextStep_step k ih).2.1

theorem endlessRun_isRun : IsRun (fun k => .agent (nextStep k (endlessRun s k))) (endlessRun s) := fun k =>
  (nextStep_step k (endlessRun_resyncing h k)).1

/-- Every later count of the reader's turns is reached, at one of its turns. -/
theorem exists_readerTurn_at (n d : Nat) :
    ∃ k, n ≤ k ∧ nextStep k (endlessRun s k) = readerTurn (endlessRun s k)
      ∧ readerCount (readerView (endlessRun s k)) = readerCount (readerView (endlessRun s n)) + d := by
  obtain ⟨k, hk, hm, hc⟩ := exists_move_at_count (f := fun k => readerCount (readerView (endlessRun s k)))
    (moves := fun k => ReaderMoves k (endlessRun s k))
    (fun k => (nextStep_step k (endlessRun_resyncing h k)).2.2.1)
    (fun k => (nextStep_step k (endlessRun_resyncing h k)).2.2.2)
    (exists_turn s 0) d n
  exact ⟨k, hk, hm.nextStep, hc⟩

/-! ### The run is fair -/

/-- Every byte arrives again and again: as the second byte of a chunk, when DISC comes to its number modulo 256. -/
theorem arrive_taken (b : Byte) (n : Nat) : ∃ k, n ≤ k ∧ nextStep k (endlessRun s k) = .arrive b := by
  have bound := b.isLt
  have lengths : ∀ k, (endlessRun s k).cn < 4 ∧ (endlessRun s k).rxb.length ≤ 1 := by
    intro k
    have hk := endlessRun_resyncing h k
    refine ⟨hk.cn_lt, ?_⟩
    rcases hk.rxb with hr | ⟨c, hr, -⟩
    · exact (congrArg List.length hr).le.trans (Nat.zero_le 1)
    · exact (congrArg List.length hr).le
  have start := lengths n
  obtain ⟨goal, hgoal⟩ : ∃ d, d = 256 * ((endlessRun s n).disc + 1) + b.toNat := ⟨_, rfl⟩
  obtain ⟨k, hk, ht, hc⟩ := exists_readerTurn_at h n (8 * goal + 2 - readerCount (readerView (endlessRun s n)))
  have here := lengths k
  have counts : 8 * (endlessRun s k).disc + 2 * (endlessRun s k).cn + (endlessRun s k).rxb.length = 8 * goal + 2 := by
    simp only [readerCount, readerView] at hc
    omega
  have hcn : (endlessRun s k).cn = 1 := by omega
  have hdisc : (endlessRun s k).disc = goal := by omega
  have hrxb : (endlessRun s k).rxb = [] := List.eq_nil_of_length_eq_zero (by omega)
  have byte : BitVec.ofNat 8 goal = b := by
    refine BitVec.eq_of_toNat_eq ?_
    rw [BitVec.toNat_ofNat]
    omega
  exact ⟨k, hk, by rw [ht, readerTurn, if_pos hrxb, garbageByte, hcn, hdisc, if_neg Nat.one_ne_zero, byte]⟩

/-- In the reader's turn the owner takes the byte that is there. -/
theorem owner_taken {owner : AgentStep} (n : Nat)
    (hw : ∀ k, n ≤ k → (endlessRun s k).rxb ≠ []
      ∧ (if (endlessRun s k).ss = .exch then AgentStep.switcher else .own) = owner) :
    ∃ k, n ≤ k ∧ nextStep k (endlessRun s k) = owner := by
  obtain ⟨k, hk, ht, -⟩ := exists_readerTurn_at h n 0
  obtain ⟨hr, ho⟩ := hw k hk
  exact ⟨k, hk, by rw [ht, readerTurn, if_neg hr, ho]⟩

end

/-- A reader that waits has no step. -/
theorem rxb_ne_nil_of_ownerStep {s t : State} (hx : s.xs = .read) (h : ownerStep s = some t) : s.rxb ≠ [] := by
  intro hr
  rw [ownerStep_waiting hx hr] at h
  cases h

/-- HOST's step is enabled in `X_READ` only where it has a byte to take, of an exchange of its own. -/
theorem isEnabled_own {s : State} (hx : s.xs = .read) (h : isEnabled .own s) : s.rxb ≠ [] ∧ s.ss ≠ .exch := by
  obtain ⟨t, ht, hn⟩ := h
  have moved : ownStep s ≠ s := fun he => hn ((Host.Outcome.next.inj ht).symm.trans he)
  unfold ownStep at moved
  split at moved
  · exact absurd rfl moved
  · rename_i hs
    cases ho : ownerStep s with
    | none => simp [ho] at moved
    | some u => exact ⟨rxb_ne_nil_of_ownerStep hx ho, hs⟩

/-- SWITCHER's step is enabled in `X_READ` only where it has a byte to take, of an exchange of its own, if it is not
running its loop elsewhere. -/
theorem isEnabled_switcher {s : State} (hx : s.xs = .read) (hs : s.ss = .stopped ∨ s.ss = .exited ∨ s.ss = .exch)
    (h : isEnabled .switcher s) : s.rxb ≠ [] ∧ s.ss = .exch := by
  obtain ⟨t, ht, hn⟩ := h
  have moved : (swStep s).getD s ≠ s := fun he => hn ((Host.Outcome.next.inj ht).symm.trans he)
  rcases hs with hs | hs | hs
  · simp [swStep, hs] at moved
  · simp [swStep, hs] at moved
  · have owner : swStep s = ownerStep s := by simp [swStep, hs, swNotStarted, hx]
    rw [owner] at moved
    cases ho : ownerStep s with
    | none => simp [ho] at moved
    | some u => exact ⟨rxb_ne_nil_of_ownerStep hx ho, hs⟩

theorem isEnabled_readTimeout {s : State} (h : isEnabled .readTimeout s) : s.rxb = [] := by
  obtain ⟨t, ht, hn⟩ := h
  by_contra hr
  exact hn ((Host.Outcome.next.inj ht).symm.trans (if_neg fun hw => hr hw.2.2))

theorem isEnabled_pollSw {s : State} (h : isEnabled .pollSw s) : s.ss = .wait := by
  obtain ⟨t, ht, hn⟩ := h
  by_contra hs
  exact hn ((Host.Outcome.next.inj ht).symm.trans (if_neg hs))

/-- The run is weakly fair to every step that nobody asks for from outside. -/
theorem endlessRun_weaklyFair {s : State} (h : Resyncing s.ss (readerView s))
    (hs : s.ss = .stopped ∨ s.ss = .exited ∨ s.ss = .exch) {a : AgentStep} (ha : isFromOutside a = false) :
    WeaklyFair a (fun k => .agent (nextStep k (endlessRun s k))) (endlessRun s) := by
  intro n hen
  have reading : ∀ k, (endlessRun s k).xs = .read := fun k => (endlessRun_resyncing h k).reading
  have place : ∀ k, (endlessRun s k).ss = s.ss := fun k => (endlessRun_resyncing h k).ss
  suffices taken : ∃ k, n ≤ k ∧ nextStep k (endlessRun s k) = a by
    obtain ⟨k, hk, he⟩ := taken
    exact ⟨k, hk, congrArg _ he⟩
  cases a with
  | own =>
    refine owner_taken h n fun k hk => ?_
    obtain ⟨hr, hx⟩ := isEnabled_own (reading k) (hen k hk)
    exact ⟨hr, if_neg hx⟩
  | switcher =>
    refine owner_taken h n fun k hk => ?_
    obtain ⟨hr, hx⟩ := isEnabled_switcher (reading k) (by rw [place k]; exact hs) (hen k hk)
    exact ⟨hr, if_pos hx⟩
  | arrive b => exact arrive_taken h b n
  | readTimeout =>
    -- the timeout does not stay enabled: the second count of a chunk is that of a byte in RXB
    obtain ⟨k, hk, ht, hc⟩ := exists_readerTurn_at h n 0
    obtain ⟨l, hl, -, hcl⟩ := exists_readerTurn_at h k 1
    have even : ∀ j, n ≤ j → readerCount (readerView (endlessRun s j)) % 2 = 0 := by
      intro j hj
      have hr := isEnabled_readTimeout (hen j hj)
      simp [readerCount, readerView, hr]
      omega
    have := even k hk
    have := even l (by omega)
    omega
  | pollSw =>
    have waits := isEnabled_pollSw (hen n (Nat.le_refl n))
    rw [place n] at waits
    simp [waits] at hs
  | display | frontEnd | pollDp | syncReqW | syncReqR | syncResW | syncResR | sampleIntr => exact sideStep_taken rfl s n
  | issue | driveIntr | driveLineOk | writeCsumVerify | writeMaxDiscard | readReg | reset => cases ha

/-- DISPLAY's delivery is taken whenever it is ready; SWITCHER's Pop never is. -/
theorem endlessRun_fair {s : State} (h : Resyncing s.ss (readerView s))
    (hs : s.ss = .stopped ∨ s.ss = .exited ∨ s.ss = .exch) :
    Fair (fun k => .agent (nextStep k (endlessRun s k))) (endlessRun s) := by
  refine ⟨fun a ha => endlessRun_weaklyFair h hs ha, fun n often => ?_, fun n often => ?_⟩
  · obtain ⟨k, -, hw, -⟩ := often n (Nat.le_refl n)
    have place : (endlessRun s k).ss = s.ss := (endlessRun_resyncing h k).ss
    rw [place] at hw
    simp [hw] at hs
  · obtain ⟨k, hk, hr⟩ := often n (Nat.le_refl n)
    exact ⟨k, hk, hr, congrArg _ (nextStep_of_ready hr)⟩

/-- Settles O60: the run of `endlessRun`, whose reader's turns count past every bound. -/
theorem endlessResyncIsARun : Obligations.EndlessResyncIsARun := by
  intro s hs hx hn hr ho hu hm
  have start : Resyncing s.ss (readerView s) :=
    { reading := hx, ss := rfl, isOpen := ho, usable := hu, unbounded := hm, cn_lt := by show s.cn < 4; omega
      rxb := .inl hr, garbage := fun h0 => absurd hn h0.ne' }
  have place : s.ss = .stopped ∨ s.ss = .exited ∨ s.ss = .exch := by
    rw [hostHolds_iff] at hs
    exact or_assoc.mp hs
  refine ⟨_, endlessRun s, rfl, endlessRun_isRun start, fun k => ⟨_, rfl, isFromOutside_nextStep k _⟩,
    fun k => ⟨(endlessRun_resyncing start k).reading, (endlessRun_resyncing start k).ss⟩, fun n => ?_,
    endlessRun_fair start place⟩
  obtain ⟨k, -, -, hc⟩ := exists_readerTurn_at start 0 (8 * n)
  have inChunk := (endlessRun_resyncing start k).cn_lt
  have held : (endlessRun s k).rxb.length ≤ 1 := by
    rcases (endlessRun_resyncing start k).rxb with h | ⟨b, h, -⟩ <;> simp [show (endlessRun s k).rxb = _ from h]
  refine ⟨k, ?_⟩
  simp only [readerCount, readerView, endlessRun, hn, hr, List.length_nil] at hc inChunk
  omega

end Sys2Proof.Machine

namespace Sys2Proof.Machine

/-! ## The answer to a client operation's frame (R200, R201, R203 to R208) -/

/-- The request code whose response the exchange of `op` waits for; no code where `op` has no exchange, or checks no
answer (R201, R203 to R208). -/
def expectedCode : ClientOp → Option Byte
  | .setall | .pulseOn _ | .pulseOff _ => some 3
  | .query | .pulseQuery _ => some 2
  | .enable => some 6
  | .disable => some 7
  | .none | .raw | .pulseSet _ | .pulseHold _ | .pulseClear _ => none

/-- What `op` does once its answer has passed the response check (R200 (5)). -/
def afterCheck : ClientOp → State → State
  | .setall, s | .query, s => opDone (.vec (unpack s.rxf.b2)) s
  | .enable, s | .disable, s => opDone .unit s
  | .pulseQuery card, s => { s with cop := .pulseSet card }
  | .pulseOn card, s => { s with cop := .pulseHold card }
  | .pulseOff _, s => opDone (.vec (unpack s.pv)) s
  | .none, s | .raw, s | .pulseSet _, s | .pulseHold _, s | .pulseClear _, s => s

/-- An operation that waits for a response goes on by the response check and then by `afterCheck`. -/
theorem opReturn_of_expectedCode {s : State} {k : Byte} (h : expectedCode s.cop = some k) :
    opReturn s = afterExchange k (afterCheck s.cop) s := by
  unfold opReturn
  cases hc : s.cop with
  | none | raw | pulseSet | pulseHold | pulseClear => simp [hc, expectedCode] at h
  | setall | query | enable | disable | pulseQuery | pulseOn | pulseOff =>
    rw [hc, expectedCode, Option.some.injEq] at h
    subst h
    rfl

/-- Every code that an operation expects is answered by a candidate (R95, R178). -/
theorem le_respCode_of_expectedCode {op : ClientOp} {k : Byte} (h : expectedCode op = some k) :
    0xF0 ≤ (respCode k).toNat := by
  cases op with
  | none | raw | pulseSet | pulseHold | pulseClear => simp [expectedCode] at h
  | setall | query | enable | disable | pulseQuery | pulseOn | pulseOff =>
    rw [expectedCode, Option.some.injEq] at h
    subst h
    decide

theorem reqCode_eq_iff {r c : Byte} : reqCode r = c ↔ r = respCode c := by
  constructor
  · rintro rfl; exact (reqCode_respCode r).symm
  · rintro rfl; exact reqCode_respCode c

/-- The response check passes exactly the candidates that carry the response code (R201). -/
theorem checkResponse_eq {c : Byte} {s : State} (h : 0xF0 ≤ s.rxf.b0.toNat) :
    checkResponse c s = if s.rxf.b0 = respCode c then none else some (errProto (respCode c) s.rxf.b0) := by
  have response : isResp s.rxf.b0 = true := isResp_of_isCandidate _ (isCandidate_iff.mpr h)
  simp only [checkResponse, response, Bool.not_true, Bool.false_or, bne_iff_ne, ne_eq, reqCode_eq_iff, ite_not]

/-- After an exchange that accepted a chunk with the response code the operation goes on (R201). -/
theorem afterExchange_of_code {c : Byte} {k : State → State} {s : State} (hv : s.xres = .ok)
    (hc : 0xF0 ≤ s.rxf.b0.toNat) (hb : s.rxf.b0 = respCode c) : afterExchange c k s = k s := by
  simp only [afterExchange, hv, checkResponse_eq hc, if_pos hb]

/-- After an exchange that accepted a chunk with another command byte the operation fails (R201, R273). -/
theorem afterExchange_of_wrong {c : Byte} {k : State → State} {s : State} (hv : s.xres = .ok)
    (hc : 0xF0 ≤ s.rxf.b0.toNat) (hb : s.rxf.b0 ≠ respCode c) :
    afterExchange c k s = opFail (errProto (respCode c) s.rxf.b0) s := by
  simp only [afterExchange, hv, checkResponse_eq hc, if_neg hb]

theorem opFail_of_host {e : Error} {s : State} (hs : s.ss ≠ .exch) :
    opFail e s = { s with ps := .idle, cop := .none, hostPort := .err e } := by
  simp [opFail, clientAsker, hs, raise, endOp]

theorem opDone_of_host {v : PortValue} {s : State} (hs : s.ss ≠ .exch) :
    opDone v s = { s with ps := .idle, cop := .none, hostPort := .ok v } := by
  simp [opDone, clientAsker, hs, complete, endOp]

/-! ## An exchange of a client operation, driven (R173 to R184) -/

/-- TXF is loaded for a client operation of HOST's on an open transport. -/
structure ReadyToSend (s : State) : Prop where
  host : s.ss ≠ .exch
  isOpen : s.isOpen = true
  usable : rxbUsable s
  written : s.txfWritten = true

/-- The operation `op` has paced its exchange, which accepted `c`, and is about to look at the answer (R184, R201). -/
def answered (op : ClientOp) (c : Quad) (s : State) : State :=
  { exchanged s.txf c s with ps := s.ps, cop := op, hostPort := .busy }

/-- With no operation in progress the acts of LINE and TIMER are left over. -/
theorem drive_ended {s : State} (rest : List LineAct) (hx : s.xs = .idle) (hc : s.cop = .none) :
    drive rest s = { s with lineIn := rest } := by
  have stays : advance s = s := advance_of_none (ownerStep_idle hx hc)
  rw [drive_done (by rw [stays]; simp [hx]), stays]

section
variable {s : State} {op : ClientOp} {k : Byte} {c : Quad} (rest : List LineAct)

/-- An exchange that accepts the candidate `c` ends in what its operation does with the answer. -/
theorem drive_answered (r : ReadyToSend s) (hc : 0xF0 ≤ c.b0.toNat) (hp : checkPasses s c) :
    drive (quadActs c ++ rest) (started op s) = drive rest (opReturn (answered op c s)) := by
  have paced : xPace (accepted c (requested (started op s))) = opReturn (answered op c s) := by
    simp [xPace, emit, accepted, requested, started, answered, exchanged, exchangeEvents, r.written]
  rw [drive_accept (s := started op s) c rest rfl r.isOpen r.usable hc hp, ← paced]
  exact drive_congr (advance_of_some (ownerStep_pace rfl)) rest

/-- The answer carries the response code: the operation goes on. -/
theorem drive_rightCode (r : ReadyToSend s) (hp : checkPasses s c) (hk : expectedCode op = some k)
    (hb : c.b0 = respCode k) :
    drive (quadActs c ++ rest) (started op s) = drive rest (afterCheck op (answered op c s)) := by
  have hc : 0xF0 ≤ c.b0.toNat := by rw [hb]; exact le_respCode_of_expectedCode hk
  rw [drive_answered rest r hc hp, opReturn_of_expectedCode (s := answered op c s) hk,
    afterExchange_of_code (s := answered op c s) rfl hc hb]
  rfl

/-- The answer carries the response code and the operation completes with the result `v`. -/
theorem drive_completed {v : PortValue} (r : ReadyToSend s) (hp : checkPasses s c) (hk : expectedCode op = some k)
    (hb : c.b0 = respCode k) (hv : afterCheck op (answered op c s) = opDone v (answered op c s)) :
    drive (quadActs c ++ rest) (started op s) = { exchanged s.txf c s with hostPort := .ok v, lineIn := rest } := by
  rw [drive_rightCode rest r hp hk hb, hv, opDone_of_host (s := answered op c s) r.host, drive_ended rest rfl rfl]
  rfl

/-- The answer carries another command byte: the operation fails with E_PROTO (R201, R273). -/
theorem drive_wrongCode (r : ReadyToSend s) (hc : 0xF0 ≤ c.b0.toNat) (hp : checkPasses s c)
    (hk : expectedCode op = some k) (hb : c.b0 ≠ respCode k) :
    drive (quadActs c ++ rest) (started op s) =
      { exchanged s.txf c s with hostPort := .err (errProto (respCode k) c.b0), lineIn := rest } := by
  rw [drive_answered rest r hc hp, opReturn_of_expectedCode (s := answered op c s) hk,
    afterExchange_of_wrong (s := answered op c s) rfl hc hb, opFail_of_host (s := answered op c s) r.host,
    drive_ended rest rfl rfl]
  rfl

/-- No answer: the operation fails with E_CONN_TRUNC(0) after the pace wait (R179, R184). -/
theorem drive_unanswered (r : ReadyToSend s) (hb : isBetween op = false) :
    drive (.silence :: rest) (started op s) =
      { s with cn := 0, disc := 0, xres := .err (errConnTrunc 0), rxb := [], txb := [], xs := .idle, ps := .idle,
               cop := .none, lineIn := rest, hostPort := .err (errConnTrunc 0),
               ev := s.ev ++ silentEvents s.params s.txf } := by
  rw [drive_flush (s := started op s) rfl,
    drive_silence (s := requested (started op s)) rest rfl (Nat.succ_pos 3) rfl, endChunk_of_empty (by rfl)]
  refine Eq.trans (drive_failed rest rfl hb rfl r.host) ?_
  simp [requested, started, silentEvents]

end

/-! ## The four operations of one exchange (R203 to R206) -/

/-- A client operation on an open transport is its first exchange, driven. -/
theorem exec_client_of_open {card index : Int} {v : RelayVec} {s : State} (hcard : 0 ≤ card ∧ card ≤ 255)
    (hindex : 0 ≤ index ∧ index ≤ 7) (hr : hostReady s) (ho : s.isOpen = true) (hu : rxbUsable s)
    {acts : List LineAct} (hl : s.lineIn = acts) {i : Instr} {op : ClientOp} {q : Quad}
    (h : (i, op, q) ∈ clientFrames card index v) :
    ReadyToSend (clientLoaded q s) ∧ exec i s = .next (drive acts (started op (clientLoaded q s))) := by
  have host := (hostReady_idle hr).1
  refine ⟨⟨host, ho, hu, rfl⟩, ?_⟩
  rw [(exec_client hcard hindex hr h).2, startExchange_open (s := clientLoaded q s) op ho host, ← hl]
  rfl

/-- Settles O23: the answer to each operation's frame carries the response code that the operation expects. -/
theorem clientOpsComplete : Obligations.ClientOpsComplete := by
  intro card index v c rest s clow chigh ilow ihigh hr ho hu hp hl
  have completes : ∀ (i : Instr) (op : ClientOp) (q : Quad) (k : Byte) (w : PortValue),
      (i, op, q) ∈ clientFrames card index v → expectedCode op = some k → c.b0 = respCode k →
      (∀ t, t.rxf = c → afterCheck op t = opDone w t) →
      exec i s = .next { exchanged q c s with hostPort := .ok w, lineIn := rest } := by
    intro i op q k w hi hk hb hw
    obtain ⟨ready, sent⟩ := exec_client_of_open ⟨clow, chigh⟩ ⟨ilow, ihigh⟩ hr ho hu hl hi
    rw [sent, drive_completed rest ready hp hk hb (hw _ rfl)]
    rfl
  refine ⟨fun hb => completes _ .setall _ 3 _ ?_ rfl hb fun t ht => ?_,
    fun hb => completes _ .query _ 2 _ ?_ rfl hb fun t ht => ?_,
    fun hb => completes _ .enable _ 6 _ ?_ rfl hb fun t ht => rfl,
    fun hb => completes _ .disable _ 7 _ ?_ rfl hb fun t ht => rfl⟩
  case refine_2 | refine_4 => rw [← ht]; rfl
  all_goals simp [clientFrames, byteOfInt]

/-- Settles O24: the answer to each operation's frame carries another code than the one that it expects. -/
theorem wrongCommandFails : Obligations.WrongCommandFails := by
  intro card index v c rest s clow chigh ilow ihigh hr ho hu hp hl hc
  have fails : ∀ (i : Instr) (op : ClientOp) (q : Quad) (k : Byte), (i, op, q) ∈ clientFrames card index v →
      expectedCode op = some k → c.b0 ≠ respCode k →
      exec i s = .next { exchanged q c s with hostPort := .err (errProto (respCode k) c.b0), lineIn := rest } := by
    intro i op q k hi hk hb
    obtain ⟨ready, sent⟩ := exec_client_of_open ⟨clow, chigh⟩ ⟨ilow, ihigh⟩ hr ho hu hl hi
    rw [sent, drive_wrongCode rest ready hc hp hk hb]
    rfl
  refine ⟨fails _ .setall _ 3 ?_ rfl, fails _ .query _ 2 ?_ rfl, fails _ .enable _ 6 ?_ rfl,
    fails _ .disable _ 7 ?_ rfl⟩
  all_goals simp [clientFrames, byteOfInt]

/-! ## PULSE (R208, R209) -/

/-- PULSE has put `pv` into PV and loaded the frame that writes it. -/
def pulseLoaded (card pv : Byte) (s : State) : State := clientLoaded (requestQuad 3 card pv) { s with pv := pv }

/-- PULSE's set and clear steps each end in this: the new vector is sent (R208). -/
theorem sendSetall_pulse {s : State} (op : ClientOp) (card pv : Byte) (ho : s.isOpen = true) (hs : s.ss ≠ .exch) :
    sendSetall op card (unpack pv) { s with pv := pv } = started op (pulseLoaded card pv s) := by
  rw [sendSetall, pack_unpack]
  exact startExchange_open (s := pulseLoaded card pv s) op ho hs

/-- Setting channels 5, 6 and 7 and then clearing them leaves the others (R155). -/
theorem clrBits_pulseMask (b : Byte) : clrBits (b ||| 0xE0) pulseMask = b &&& 0x1F :=
  clrBits_setBits b pulseMask

section
variable {s : State} {card : Byte} {c : Quad} (rest : List LineAct)

/-- PULSE's QUERY has been answered: the set step starts the second exchange (R208). -/
theorem drive_pulseQuery (r : ReadyToSend s) (hp : checkPasses s c) (hb : c.b0 = respCode 2) :
    drive (quadActs c ++ rest) (started (.pulseQuery card) s) =
      drive rest (started (.pulseOn card) (pulseLoaded card (c.b2 ||| 0xE0) (exchanged s.txf c s))) := by
  have setStep : pulseOnStep card (afterCheck (.pulseQuery card) (answered (.pulseQuery card) c s)) =
      started (.pulseOn card) (pulseLoaded card (c.b2 ||| 0xE0) (exchanged s.txf c s)) := by
    rw [pulseOnStep, pack_unpack]
    exact sendSetall_pulse _ card _ r.isOpen r.host
  rw [drive_rightCode rest r hp rfl hb, ← setStep]
  exact drive_congr (advance_of_some rfl) rest

/-- PULSE's second exchange has been answered: it holds, and the clear step starts the third (R208). -/
theorem drive_pulseOn (r : ReadyToSend s) (hp : checkPasses s c) (hb : c.b0 = respCode 3) :
    drive (quadActs c ++ rest) (started (.pulseOn card) s) =
      drive rest (started (.pulseOff card) (pulseLoaded card (clrBits s.pv pulseMask)
        (emit (.wait .pulseHold s.params.tPulseMs) (exchanged s.txf c s)))) := by
  have clearStep : pulseOffStep card
        (pulseHoldStep card (afterCheck (.pulseOn card) (answered (.pulseOn card) c s))) =
      started (.pulseOff card) (pulseLoaded card (clrBits s.pv pulseMask)
        (emit (.wait .pulseHold s.params.tPulseMs) (exchanged s.txf c s))) :=
    sendSetall_pulse _ card _ r.isOpen r.host
  rw [drive_rightCode rest r hp rfl hb, ← clearStep]
  exact drive_congr ((advance_of_some rfl).trans (advance_of_some rfl)) rest

end

/-- A ready state in which XS and PS are written out, so that an operation's end is seen to leave them as they were. -/
theorem exists_idle_of_hostReady {s : State} (hr : hostReady s) :
    ∃ t : State, s = { t with xs := .idle, ps := .idle } := by
  obtain ⟨-, hx, hp⟩ := hostReady_idle hr
  exact ⟨s, by rw [← hx, ← hp]⟩

/-- PULSE has set channels 5, 6 and 7 in the state that `c1` answers, and loaded its second frame. -/
def pulseSecond (card : Byte) (c1 : Quad) (s : State) : State :=
  pulseLoaded card (c1.b2 ||| 0xE0) (exchanged (requestQuad 2 card 0) c1 s)

/-- PULSE has held after the answer `c2`, cleared channels 5, 6 and 7, and loaded its third frame. -/
def pulseThird (card : Byte) (c1 c2 : Quad) (s : State) : State :=
  pulseLoaded card (c1.b2 &&& 0x1F) (emit (.wait .pulseHold s.params.tPulseMs)
    (exchanged (requestQuad 3 card (c1.b2 ||| 0xE0)) c2 (pulseSecond card c1 s)))

section
variable {card : Int} {s : State} {c1 c2 : Quad} {rest : List LineAct}

theorem readyToSend_pulseSecond (hr : hostReady s) (ho : s.isOpen = true) (hu : rxbUsable s) :
    ReadyToSend (pulseSecond (byteOfInt card) c1 s) :=
  ⟨(hostReady_idle hr).1, ho, hu, rfl⟩

theorem readyToSend_pulseThird (hr : hostReady s) (ho : s.isOpen = true) (hu : rxbUsable s) :
    ReadyToSend (pulseThird (byteOfInt card) c1 c2 s) :=
  ⟨(hostReady_idle hr).1, ho, hu, rfl⟩

/-- PULSE on an open transport begins as a QUERY (R208). -/
theorem exec_pulse (hcard : 0 ≤ card ∧ card ≤ 255) (hr : hostReady s) (ho : s.isOpen = true) (hu : rxbUsable s)
    {acts : List LineAct} (hl : s.lineIn = acts) :
    ReadyToSend (clientLoaded (requestQuad 2 (byteOfInt card) 0) s) ∧ exec (.pulse card) s =
      .next (drive acts
        (started (.pulseQuery (byteOfInt card)) (clientLoaded (requestQuad 2 (byteOfInt card) 0) s))) :=
  exec_client_of_open (index := 0) (v := unpack 0) hcard (by decide) hr ho hu hl (by simp [clientFrames])

/-- PULSE whose QUERY is answered comes to its second exchange. -/
theorem exec_pulse_second (hcard : 0 ≤ card ∧ card ≤ 255) (hr : hostReady s) (ho : s.isOpen = true)
    (hu : rxbUsable s) (hp : checkPasses s c1) (hb : c1.b0 = 0xFD) (hl : s.lineIn = quadActs c1 ++ rest) :
    exec (.pulse card) s =
      .next (drive rest (started (.pulseOn (byteOfInt card)) (pulseSecond (byteOfInt card) c1 s))) := by
  obtain ⟨ready, sent⟩ := exec_pulse hcard hr ho hu hl
  rw [sent, drive_pulseQuery rest ready hp hb]
  rfl

/-- PULSE whose first two frames are answered comes to its third exchange. -/
theorem exec_pulse_third (hcard : 0 ≤ card ∧ card ≤ 255) (hr : hostReady s) (ho : s.isOpen = true)
    (hu : rxbUsable s) (hp1 : checkPasses s c1) (hp2 : checkPasses s c2) (hb1 : c1.b0 = 0xFD) (hb2 : c2.b0 = 0xFC)
    (hl : s.lineIn = quadActs c1 ++ (quadActs c2 ++ rest)) :
    exec (.pulse card) s =
      .next (drive rest (started (.pulseOff (byteOfInt card)) (pulseThird (byteOfInt card) c1 c2 s))) := by
  rw [exec_pulse_second hcard hr ho hu hp1 hb1 hl, drive_pulseOn rest (readyToSend_pulseSecond hr ho hu) hp2 hb2,
    show (pulseSecond (byteOfInt card) c1 s).pv = c1.b2 ||| 0xE0 from rfl, clrBits_pulseMask]
  rfl

end

/-- Settles O29: PULSE comes to its third exchange, whose answer completes it with PV. -/
theorem pulseCompletes : Obligations.PulseCompletes := by
  intro card c1 c2 c3 q1 q2 q3 rest s low high hr ho hu hb1 hb2 hb3 hp1 hp2 hp3 hl hq1 hq2 hq3
  obtain ⟨t, rfl⟩ := exists_idle_of_hostReady hr
  subst hq1 hq2 hq3
  rw [List.append_assoc, List.append_assoc] at hl
  rw [exec_pulse_third ⟨low, high⟩ hr ho hu hp1 hp2 hb1 hb2 hl,
    drive_completed (k := 3) (v := .vec (unpack (c1.b2 &&& 0x1F))) rest (readyToSend_pulseThird hr ho hu) hp3 rfl hb3
      rfl]
  rfl

/-- Settles O59: each clause comes to the exchange that fails, and ends there. -/
theorem pulseFailsPartWay : Obligations.PulseFailsPartWay := by
  intro card c1 c2 w q1 q2 q3 rest more s e low high hr ho hu hp1 hp2 hpw hl hq1 hq2 hq3
  obtain ⟨t, rfl⟩ := exists_idle_of_hostReady hr
  subst hq1 hq2 hq3
  have ready2 := readyToSend_pulseSecond (card := card) (c1 := c1) hr ho hu
  have ready3 := readyToSend_pulseThird (card := card) (c1 := c1) (c2 := c2) hr ho hu
  refine ⟨fun hc1 hb1 => ?_, fun hb1 hrest (he : e = errConnTrunc 0) => ?_,
    fun hb1 hrest hcw hbw (he : e = errProto (respCode 3) w.b0) => ?_,
    fun hb1 hb2 hrest (he : e = errConnTrunc 0) => ?_,
    fun hb1 hb2 hrest hcw hbw (he : e = errProto (respCode 3) w.b0) => ?_⟩
  case refine_1 =>
    obtain ⟨ready1, sent⟩ := exec_pulse ⟨low, high⟩ hr ho hu hl
    rw [sent, drive_wrongCode (k := 2) rest ready1 hc1 hp1 rfl hb1]
    rfl
  all_goals subst hrest he
  case refine_2 =>
    rw [exec_pulse_second ⟨low, high⟩ hr ho hu hp1 hb1 hl, drive_unanswered more ready2 rfl]
    rfl
  case refine_3 =>
    rw [exec_pulse_second ⟨low, high⟩ hr ho hu hp1 hb1 hl, drive_wrongCode (k := 3) more ready2 hcw hpw rfl hbw]
    rfl
  case refine_4 =>
    rw [exec_pulse_third ⟨low, high⟩ hr ho hu hp1 hp2 hb1 hb2 hl, drive_unanswered more ready3 rfl]
    rfl
  case refine_5 =>
    rw [List.append_assoc] at hl
    rw [exec_pulse_third ⟨low, high⟩ hr ho hu hp1 hp2 hb1 hb2 hl,
      drive_wrongCode (k := 3) more ready3 hcw hpw rfl hbw]
    rfl

end Sys2Proof.Machine

namespace Sys2Proof.Machine

/-! ## The FIFOs (R228 to R231): one equation per outcome of an operation -/

section
variable {α : Type} {q : Fifo α} {v : α} {rest : List α} {n : Nat}

theorem fifoRoom_iff {depth : Option Nat} :
    fifoRoom depth q n = true ↔ ∀ d, depth = some d → q.items.length + q.freed + n ≤ d :=
  hasRoom_iff

theorem fifoRoom_eq_false_iff {depth : Option Nat} :
    fifoRoom depth q n = false ↔ ∃ d, depth = some d ∧ d < q.items.length + q.freed + n := by
  rw [← Bool.not_eq_true, fifoRoom_iff]
  push Not
  rfl

theorem fifoHead_eq_some_iff (hi : q.items = v :: rest) : fifoHead q = some v ↔ 0 < q.vis := by
  simp [fifoHead, hi]

theorem fifoHead_of_hidden (h : q.vis = 0) : fifoHead q = none := by
  simp [fifoHead, h]

/-- With an unbounded capacity no slot is freed by a Pop (R230). -/
theorem fifoPop_none (hi : q.items = v :: rest) : fifoPop none q = ⟨rest, q.vis - 1, q.freed⟩ := by
  simp [fifoPop, hi]

theorem fifoPop_some (d : Nat) (hi : q.items = v :: rest) : fifoPop (some d) q = ⟨rest, q.vis - 1, q.freed + 1⟩ := by
  simp [fifoPop, hi]

theorem fifoSyncW_of_allowed (h : q.vis < n) (hn : n ≤ q.items.length) :
    fifoSyncW n q = ⟨q.items, n, q.freed⟩ :=
  if_pos ⟨h, hn⟩

theorem fifoSyncW_of_not_allowed (h : n ≤ q.vis ∨ q.items.length < n) : fifoSyncW n q = q :=
  if_neg fun allowed => by omega

theorem fifoSyncR_of_allowed {d : Nat} (h : n < q.freed) : fifoSyncR (some d) n q = ⟨q.items, q.vis, n⟩ :=
  if_pos ⟨rfl, h⟩

theorem fifoSyncR_of_not_allowed {depth : Option Nat} (h : depth = none ∨ q.freed ≤ n) :
    fifoSyncR depth n q = q :=
  if_neg fun allowed => by
    obtain ⟨finite, below⟩ := allowed
    rcases h with rfl | h
    · cases finite
    · omega

end

/-- Settles O34. -/
theorem fifoStaysLegal : Obligations.FifoStaysLegal :=
  ⟨rfl, rfl, fun _ _ _ v n h =>
    ⟨fifoLegal_push v h, fun _ hv => fifoLegal_pop h hv, fifoLegal_syncW n h, fifoLegal_syncR n h⟩⟩

/-- Settles O35: each step of SYNC on the machine is the step of its FIFO. -/
theorem fifoSteps : Obligations.FifoSteps := by
  intro α q v rest n d s
  have reqW : agentStep (.syncReqW n) s = .next { s with reqq := fifoSyncW n s.reqq } := rfl
  have resW : agentStep (.syncResW n) s = .next { s with resq := fifoSyncW n s.resq } := rfl
  have reqR : agentStep (.syncReqR n) s = .next { s with reqq := fifoSyncR s.params.qdepthReq n s.reqq } := rfl
  have resR : agentStep (.syncResR n) s = .next { s with resq := fifoSyncR s.params.qdepthRes n s.resq } := rfl
  rw [reqW, resW, reqR, resR]
  refine ⟨rfl, rfl, rfl, rfl, decide_eq_true_iff, fun hi => fifoHead_eq_some_iff hi,
    fun hi _ => ⟨fifoPop_none hi, fifoPop_some d hi⟩, fun h hn => fifoSyncW_of_allowed h hn,
    fun h => fifoSyncR_of_allowed h, fifoSyncR_of_not_allowed (.inl rfl), fun h hn => ?_, fun h hn => ?_,
    fun hd h => ?_, fun hd h => ?_, fun h => ?_, fun h => ?_, fun h => ?_, fun h => ?_⟩
  · rw [fifoSyncW_of_allowed h hn]
  · rw [fifoSyncW_of_allowed h hn]
  · rw [hd, fifoSyncR_of_allowed h]
  · rw [hd, fifoSyncR_of_allowed h]
  · rw [fifoSyncW_of_not_allowed h]
  · rw [fifoSyncW_of_not_allowed h]
  · rw [fifoSyncR_of_not_allowed h]
  · rw [fifoSyncR_of_not_allowed h]

end Sys2Proof.Machine

namespace Sys2Proof.Machine

/-! ## The pushes of the producer (R229, R235, R236) -/

/-- HOST's request is complete and its entries `rs` are in REQQ, one event each (R229). -/
def requestsPushed (rs : List PendingRequest) (s : State) : State :=
  { s with reqq := ⟨s.reqq.items ++ rs, s.reqq.vis, s.reqq.freed⟩
           ev := s.ev ++ rs.map (fun r => .push (.reqq r)), fePort := .ok .unit }

section
variable {r : FeRequest} {rs : List PendingRequest} {s : State}

theorem fePush_of_room (hrs : feEntries r s = rs) (room : fifoRoom s.params.qdepthReq s.reqq rs.length = true) :
    fePush r s = some (requestsPushed rs s) := by
  rw [fePush, hrs, if_pos room, pushAll_eq]
  rfl

theorem fePush_of_full (hrs : feEntries r s = rs) (full : fifoRoom s.params.qdepthReq s.reqq rs.length = false) :
    fePush r s = none := by
  rw [fePush, hrs, full]
  rfl

/-- With nothing held, a request for which the producer sees room is pushed at once (R229). -/
theorem fePresent_of_room (hw : s.feWait = []) (hrs : feEntries r s = rs)
    (room : fifoRoom s.params.qdepthReq s.reqq rs.length = true) : fePresent r s = requestsPushed rs s := by
  rw [fePresent, if_pos hw, fePush_of_room hrs room]
  rfl

/-- A request waits behind those held before it, and for room for all its entries (R229, log 16). -/
theorem fePresent_of_held (hrs : feEntries r s = rs)
    (h : s.feWait ≠ [] ∨ fifoRoom s.params.qdepthReq s.reqq rs.length = false) : fePresent r s = feHold r s := by
  rw [fePresent]
  split
  · rename_i hw
    rw [fePush_of_full hrs (h.resolve_left fun held => held hw)]
    rfl
  · rfl

/-- The oldest held request is pushed when there is room for it (R229, log 16). -/
theorem frontEnd_of_room {others : List FeRequest} (hw : s.feWait = r :: others) (hrs : feEntries r s = rs)
    (room : fifoRoom s.params.qdepthReq s.reqq rs.length = true) :
    agentStep .frontEnd s = .next { requestsPushed rs s with feWait := others } := by
  show Host.Outcome.next (feRetry s) = _
  simp only [feRetry, hw, fePush_of_room hrs room]

theorem frontEnd_of_full {others : List FeRequest} (hw : s.feWait = r :: others) (hrs : feEntries r s = rs)
    (full : fifoRoom s.params.qdepthReq s.reqq rs.length = false) : agentStep .frontEnd s = .next s := by
  show Host.Outcome.next (feRetry s) = _
  simp only [feRetry, hw, fePush_of_full hrs full]

end

/-! ## SUBMIT (R235) -/

theorem delayFits_iff {delayW : Nat} {ms : Int} : delayFits delayW ms = true ↔ 0 ≤ ms ∧ ms < 2 ^ delayW := by
  simp [delayFits]

theorem delayFits_eq_false_iff {delayW : Nat} {ms : Int} :
    delayFits delayW ms = false ↔ ms < 0 ∨ 2 ^ delayW ≤ ms := by
  rw [← Bool.not_eq_true, delayFits_iff, not_and_or, not_le, not_lt]

theorem exec_submit_of_fits {target : Byte} {settle : Int} {s : State} (h : delayFits s.params.delayW settle = true) :
    exec (.submit target settle) s = .next (fePresent (.submit ⟨target, settle.toNat⟩) s) := by
  show execSubmit target settle s = _
  rw [execSubmit, h]
  rfl

theorem exec_submit_of_range {target : Byte} {settle : Int} {s : State}
    (h : delayFits s.params.delayW settle = false) : exec (.submit target settle) s = .refused .delayRange := by
  show execSubmit target settle s = _
  rw [execSubmit, h]
  rfl

/-- Settles O36: SUBMIT is a request of one entry. -/
theorem submitOutcomes : Obligations.SubmitOutcomes := by
  intro target settle s r others hr
  subst hr
  have entries : feEntries (.submit ⟨target, settle.toNat⟩) s = [⟨target, settle.toNat⟩] := rfl
  refine ⟨fun low high hw room => ?_, fun low high h => ?_, fun h => ?_, fun hw room => ?_, fun d hw hd full => ?_⟩
  · rw [exec_submit_of_fits (delayFits_iff.mpr ⟨low, high⟩), fePresent_of_room hw entries (fifoRoom_iff.mpr room)]
    rfl
  · rw [exec_submit_of_fits (delayFits_iff.mpr ⟨low, high⟩), fePresent_of_held entries]
    · rfl
    · exact h.imp_right fun ⟨d, hd, full⟩ => fifoRoom_eq_false_iff.mpr ⟨d, hd, Nat.lt_succ_of_le full⟩
  · exact exec_submit_of_range (delayFits_eq_false_iff.mpr h)
  · exact frontEnd_of_room hw entries (fifoRoom_iff.mpr room)
  · exact frontEnd_of_full hw entries (fifoRoom_eq_false_iff.mpr ⟨d, hd, Nat.lt_succ_of_le full⟩)

/-! ## BATCH (R236) -/

theorem durationFits_iff {delayW : Nat} {duration : Option Int} :
    durationFits delayW duration = true ↔ ∀ ms, duration = some ms → 0 ≤ ms ∧ ms < 2 ^ delayW := by
  cases duration <;> simp [durationFits, delayFits_iff]

theorem durationMs_eq (duration : Option Int) : durationMs duration = (duration.getD 0).toNat := by
  cases duration <;> rfl

theorem indexInRange_target_iff {t : Int} : indexInRange (t - 1) = true ↔ 1 ≤ t ∧ t ≤ 8 := by
  rw [indexInRange_iff]
  omega

theorem badTarget_eq_none {targets : List Int} (h : ∀ t ∈ targets, 1 ≤ t ∧ t ≤ 8) : badTarget targets = none :=
  List.find?_eq_none.mpr fun t ht => by simp [indexInRange_target_iff.mpr (h t ht)]

/-- The first target out of range is the one that is reported (R236, log 15). -/
theorem badTarget_append {pre : List Int} {t : Int} (post : List Int) (h : ∀ u ∈ pre, 1 ≤ u ∧ u ≤ 8)
    (ht : t < 1 ∨ 8 < t) : badTarget (pre ++ t :: post) = some t := by
  have bad : indexInRange (t - 1) = false := indexInRange_eq_false_iff.mpr (by omega)
  have before : pre.find? (fun u => !indexInRange (u - 1)) = none := badTarget_eq_none h
  rw [badTarget, List.find?_append, before, Option.none_or, List.find?_cons_of_pos (by simp [bad])]

/-- A lane of the mask that a batch has gathered is one gathered before or that of one of its targets. -/
theorem getLsbD_foldl_mask {i : Nat} (hi : i < 8) (targets : List Int) : ∀ m : Byte,
    (∀ t ∈ targets, 1 ≤ t ∧ t ≤ 8) →
    (targets.foldl (fun m t => m ||| pack (oneHot (t - 1).toNat)) m).getLsbD i
      = (m.getLsbD i || decide ((i : Int) + 1 ∈ targets)) := by
  induction targets with
  | nil => simp
  | cons t targets ih =>
    intro m h
    have lane : (pack (oneHot (t - 1).toNat)).getLsbD i = decide ((i : Int) + 1 = t) := by
      obtain ⟨low, -⟩ := h t (.head _)
      have hit : (t - 1).toNat = i ↔ (i : Int) + 1 = t := by omega
      rw [getLsbD_pack _ ⟨i, hi⟩, oneHot_lane, Bool.beq_eq_decide_eq]
      exact decide_eq_decide.mpr hit
    rw [List.foldl_cons, ih _ fun u hu => h u (.tail _ hu), BitVec.getLsbD_or, lane]
    simp [Bool.or_assoc]

/-- Bit `i` of the mask of a batch stands for the 1-based target `i + 1` (R236, R98). -/
theorem getLsbD_batchMask {targets : List Int} (h : ∀ t ∈ targets, 1 ≤ t ∧ t ≤ 8) {i : Nat} (hi : i < 8) :
    (batchMask targets).getLsbD i = decide ((i : Int) + 1 ∈ targets) := by
  rw [batchMask, getLsbD_foldl_mask hi targets 0 h]
  simp

section
variable {action : BatchAction} {targets : List Int} {duration : Option Int} {s : State}

theorem exec_batch_of_hidden (hc : s.curv = false) :
    exec (.batch action targets duration) s = .refused .noDisplayedState := by
  show execBatch action targets duration s = _
  rw [execBatch, hc]
  rfl

theorem exec_batch_of_range (hc : s.curv = true) (hd : durationFits s.params.delayW duration = false) :
    exec (.batch action targets duration) s = .refused .delayRange := by
  show execBatch action targets duration s = _
  rw [execBatch, hc, hd]
  rfl

theorem exec_batch_of_bad {t : Int} (hc : s.curv = true) (hd : durationFits s.params.delayW duration = true)
    (ht : badTarget targets = some t) :
    exec (.batch action targets duration) s = .next (raise .frontEnd (errRangeIndex (t - 1)) s) := by
  show execBatch action targets duration s = _
  rw [execBatch, hc, hd, ht]
  rfl

/-- A batch whose operands are in range goes to the producer. -/
theorem exec_batch_of_ok (hc : s.curv = true) (hd : durationFits s.params.delayW duration = true)
    (ht : ∀ t ∈ targets, 1 ≤ t ∧ t ≤ 8) :
    exec (.batch action targets duration) s =
      .next (fePresent (.batch action targets (duration.getD 0).toNat) s) := by
  show execBatch action targets duration s = _
  rw [execBatch, hc, hd, badTarget_eq_none ht, durationMs_eq]
  rfl

end

theorem feEntries_batch (action : BatchAction) (targets : List Int) (ms : Nat) (s : State) :
    feEntries (.batch action targets ms) s = batchEntries action targets ms s.cur := rfl

/-- The entries of a batch: one for activate and deactivate, two for pulse (R236). -/
theorem length_batchEntries (action : BatchAction) (targets : List Int) (ms : Nat) (b : Byte) :
    (batchEntries action targets ms b).length =
      match action with | .activate => 1 | .deactivate => 1 | .pulse => 2 := by
  cases action <;> rfl

/-- Settles O37: the batch is pushed at once, and its entries are those of `batchEntries`. -/
theorem batchPushes : Obligations.BatchPushes := by
  intro targets duration s after hc ht hd hw hafter
  have pushes : ∀ action rs, feEntries (.batch action targets (duration.getD 0).toNat) s = rs →
      fifoRoom s.params.qdepthReq s.reqq rs.length = true →
      exec (.batch action targets duration) s = .next (after rs) := fun action rs hrs room => by
    rw [exec_batch_of_ok hc (durationFits_iff.mpr hd) ht, fePresent_of_room hw hrs room, hafter]
    rfl
  refine ⟨batchMask targets, fun _ => getLsbD_batchMask ht, fun room => ⟨?_, ?_⟩, fun room => ?_⟩
  · exact pushes .activate _ rfl (fifoRoom_iff.mpr room)
  · exact pushes .deactivate _ rfl (fifoRoom_iff.mpr room)
  · exact pushes .pulse _ rfl (fifoRoom_iff.mpr room)

/-- Settles O38: the operands are looked at first, and a batch in range is held while there is no room for all its
entries. -/
theorem batchStopsAndHolds : Obligations.BatchStopsAndHolds := by
  intro action pre post targets t duration ms need others s hneed
  have count : ∀ d, (batchEntries action targets d s.cur).length = need := fun d =>
    (length_batchEntries action targets d s.cur).trans hneed.symm
  refine ⟨exec_batch_of_hidden, fun hc hx => ?_, fun hc hx hpre ht => ?_, fun hc hx ht h => ?_, fun hw ht room => ?_,
    fun d hw hd full => ?_⟩
  · obtain ⟨x, rfl, range⟩ := hx
    exact exec_batch_of_range hc (delayFits_eq_false_iff.mpr range)
  · exact exec_batch_of_bad hc (durationFits_iff.mpr hx) (badTarget_append post hpre ht)
  · rw [exec_batch_of_ok hc (durationFits_iff.mpr hx) ht, fePresent_of_held (feEntries_batch ..)]
    · rfl
    · exact h.imp_right fun full => fifoRoom_eq_false_iff.mpr (by rwa [count])
  · refine ⟨batchMask targets, batchEntries action targets ms s.cur, fun _ => getLsbD_batchMask ht, ?_,
      frontEnd_of_room hw (feEntries_batch ..) (fifoRoom_iff.mpr (by rwa [count]))⟩
    cases action <;> rfl
  · exact frontEnd_of_full hw (feEntries_batch ..) (fifoRoom_eq_false_iff.mpr ⟨d, hd, by rwa [count]⟩)

end Sys2Proof.Machine

namespace Sys2Proof.Machine

/-! ## Starting the workers (R239) -/

/-- Settles O39: the tests of START_SW and START_DP, in their order. -/
theorem startWorkers : Obligations.StartWorkers := by
  intro s
  have sw : exec .startSw s = execStartSw s := rfl
  have dp : exec .startDp s = execStartDp s := rfl
  rw [sw, dp]
  refine ⟨fun hs hx hp => ?_, fun hs => if_pos hs, fun hs hb => ?_, fun hs => if_neg (not_not.mpr hs),
    fun hs => if_pos hs⟩
  · have idle : transportIdle s = true := transportIdle_iff.mpr ⟨hx, hp⟩
    rw [execStartSw, if_neg (not_not.mpr hs), idle]
    rfl
  · have inUse : transportIdle s = false := by
      rw [← Bool.not_eq_true, transportIdle_iff, not_and_or]
      exact hb
    rw [execStartSw, if_neg (not_not.mpr hs), inUse]
    rfl

/-! ## The steps of SWITCHER (R240 to R247): one equation per outcome -/

section
variable {s t : State} {r : PendingRequest} {queue : List PendingRequest}

theorem agentStep_switcher (h : swStep s = some t) : agentStep .switcher s = .next t := by
  simp [agentStep, h]

theorem agentStep_switcher_of_none (h : swStep s = none) : agentStep .switcher s = .next s := by
  simp [agentStep, h]

theorem swStep_top (hs : s.ss = .top) : swStep s = some (swTop s) := by simp [swStep, hs]

theorem swStep_wait (hs : s.ss = .wait) : swStep s = swPop s := by simp [swStep, hs]

theorem swStep_push (hs : s.ss = .push) : swStep s = swPush s := by simp [swStep, hs]

theorem swStep_settle (hs : s.ss = .settle) : swStep s = some (swSettle s) := by simp [swStep, hs]

theorem swStep_of_not_running (hs : s.ss = .stopped ∨ s.ss = .exited) : swStep s = none := by
  rcases hs with hs | hs <;> simp [swStep, hs]

theorem swTop_of_intr (h : s.intrSw = true) :
    swTop s = { s with doneSw := true, ss := .exited, ev := s.ev ++ [.exited .sw] } := by
  simp [swTop, h, emit]

theorem swTop_of_no_intr (h : s.intrSw = false) : swTop s = { s with ss := .wait } := by
  simp [swTop, h]

theorem swPoll_of_wait (hs : s.ss = .wait) : swPoll s = { s with ss := .top } := if_pos hs

/-- SWITCHER has popped `r`, and REQQ is `q` (R242). -/
def requestPopped (r : PendingRequest) (q : Fifo PendingRequest) (s : State) : State :=
  { s with lreq := r, ss := .exch, reqq := q, ev := s.ev ++ [.pop (.reqq r)] }

theorem swPop_of_head (h : fifoHead s.reqq = some r) :
    swPop s = some (requestPopped r (fifoPop s.params.qdepthReq s.reqq) s) := by
  simp [swPop, h, popReq, emit, requestPopped]

theorem swPop_of_hidden (h : s.reqq.vis = 0) : swPop s = none := by
  simp [swPop, fifoHead_of_hidden h]

theorem swPush_of_room (h : fifoRoom s.params.qdepthRes s.resq 1 = true) :
    swPush s = some { s with ss := .settle, resq := ⟨s.resq.items ++ [s.lres], s.resq.vis, s.resq.freed⟩
                             ev := s.ev ++ [.push (.resq s.lres)] } := by
  simp [swPush, h, pushRes, emit, fifoPush]

theorem swPush_of_full (h : fifoRoom s.params.qdepthRes s.resq 1 = false) : swPush s = none := by
  simp [swPush, h]

end

/-- Settles O40: each step of SWITCHER by the state it is taken in. -/
theorem switcherSteps : Obligations.SwitcherSteps := by
  intro s
  have pops : ∀ r rest q, s.ss = .wait → s.reqq.items = r :: rest → 0 < s.reqq.vis →
      fifoPop s.params.qdepthReq s.reqq = q → agentStep .switcher s = .next (requestPopped r q s) :=
    fun r rest q hs hi hv hq => agentStep_switcher <| by
      rw [swStep_wait hs, swPop_of_head ((fifoHead_eq_some_iff hi).mpr hv), hq]
  refine ⟨fun hs h => ?_, fun hs h => ?_, fun hs => congrArg _ (swPoll_of_wait hs), fun r rest hs hi hv hd => ?_,
    fun r rest d hs hi hv hd => ?_, fun hs hv => ?_, fun hs room => ?_, fun d hs hd full => ?_, fun hs => ?_,
    fun hs => ?_, fun _ => rfl, rfl, rfl⟩
  · exact agentStep_switcher ((swStep_top hs).trans (congrArg some (swTop_of_intr h)))
  · exact agentStep_switcher ((swStep_top hs).trans (congrArg some (swTop_of_no_intr h)))
  · exact pops r rest _ hs hi hv (by rw [hd, fifoPop_none hi])
  · exact pops r rest _ hs hi hv (by rw [hd, fifoPop_some d hi])
  · exact agentStep_switcher_of_none ((swStep_wait hs).trans (swPop_of_hidden hv))
  · exact agentStep_switcher ((swStep_push hs).trans (swPush_of_room (fifoRoom_iff.mpr room)))
  · exact agentStep_switcher_of_none ((swStep_push hs).trans
      (swPush_of_full (fifoRoom_eq_false_iff.mpr ⟨d, hd, Nat.lt_succ_of_le full⟩)))
  · exact agentStep_switcher (swStep_settle hs)
  · exact agentStep_switcher_of_none (swStep_of_not_running hs)

end Sys2Proof.Machine

namespace Sys2Proof.Machine

/-! ## SWITCHER's exchange (R243, R244, R290) -/

section
variable {s : State}

theorem opFail_of_switcher {e : Error} (hs : s.ss = .exch) :
    opFail e s = { s with ps := .idle, cop := .none, ss := .top, errlog := s.errlog ++ [e],
                          ev := s.ev ++ [.err e] } := by
  simp [opFail, clientAsker, hs, raise, emit, endOp]

theorem opDone_of_switcher {v : RelayVec} (hs : s.ss = .exch) :
    opDone (.vec v) s = { s with ps := .idle, cop := .none, lres := pack v, ss := .push } := by
  simp [opDone, clientAsker, hs, complete, endOp]

/-- SWITCHER's SETALL with its exchange just started: the host control port stays as it is. -/
def swStarted (s : State) : State := { s with disc := 0, xres := .none, xs := .flush, cop := .setall }

theorem startExchange_of_switcher (ho : s.isOpen = true) (hs : s.ss = .exch) :
    startExchange .setall s = swStarted s := by
  simp [startExchange, ho, markBusy, hs, swStarted]

/-- In `S_EXCH` with no operation in progress, SWITCHER's exchange is the SETALL of LREQ's target, from its start step
(R243). -/
theorem swExchange_eq (hs : swNotStarted s = true) :
    swExchange s =
      driveOp (startExchange .setall (clientLoaded (requestQuad 3 s.params.cardId s.lreq.target) s)) := by
  rw [swExchange, if_pos hs, swStart, sendSetall, pack_unpack]
  rfl

/-- An exchange after its pace wait (R184). -/
def paced (s : State) : State := { s with xs := .idle, ev := s.ev ++ [.wait .pace s.params.tPaceMs] }

/-- SWITCHER's SETALL has reached a verdict and waits its pace. -/
structure SwPacing (s : State) : Prop where
  ss : s.ss = .exch
  xs : s.xs = .pace
  cop : s.cop = .setall

theorem SwPacing.xPace_eq (h : SwPacing s) : xPace s = afterExchange 3 (afterCheck .setall) (paced s) := by
  have owner : (paced s).cop = .setall := h.cop
  rw [← owner]
  exact opReturn_of_expectedCode (s := paced s) (by rw [owner]; rfl)

/-- The exchange ended in an error (R200 (3)). -/
theorem SwPacing.xPace_of_error (h : SwPacing s) {e : Error} (he : s.xres = .err e) : xPace s = opFail e (paced s) := by
  simp [h.xPace_eq, afterExchange, paced, he]

/-- The response check fails (R201). -/
theorem SwPacing.xPace_of_wrongCode (h : SwPacing s) (hv : s.xres = .ok) (hc : 0xF0 ≤ s.rxf.b0.toNat)
    (hb : s.rxf.b0 ≠ respCode 3) : xPace s = opFail (errProto (respCode 3) s.rxf.b0) (paced s) :=
  h.xPace_eq.trans (afterExchange_of_wrong (s := paced s) hv hc hb)

/-- The pace step ends the operation, and the exchange phase with it (R184). -/
theorem SwPacing.drive_eq (h : SwPacing s) (rest : List LineAct) (hx : (xPace s).xs = .idle)
    (hc : (xPace s).cop = .none) : drive rest s = { xPace s with lineIn := rest } :=
  drive_pace rest h.xs (ownerStep_idle hx hc) (by simp [hx])

/-- SWITCHER's SETALL fails: the error is logged, and the loop is back at its top (R244). -/
theorem SwPacing.drive_failed (h : SwPacing s) {e : Error} (rest : List LineAct) (hf : xPace s = opFail e (paced s)) :
    drive rest s = { s with xs := .idle, ps := .idle, cop := .none, ss := .top, lineIn := rest,
                            errlog := s.errlog ++ [e], ev := s.ev ++ [.wait .pace s.params.tPaceMs, .err e] } := by
  have fails := hf.trans (opFail_of_switcher (s := paced s) h.ss)
  rw [h.drive_eq rest (by rw [fails]; rfl) (by rw [fails]), fails]
  simp [paced]

/-- SWITCHER's SETALL is answered: the echo is in LRES, and the push is next (R243). -/
theorem SwPacing.drive_echo (h : SwPacing s) (rest : List LineAct) (hv : s.xres = .ok) (hb : s.rxf.b0 = respCode 3) :
    drive rest s = { s with xs := .idle, ps := .idle, cop := .none, ss := .push, lineIn := rest, lres := s.rxf.b2,
                            ev := s.ev ++ [.wait .pace s.params.tPaceMs] } := by
  have hc : 0xF0 ≤ s.rxf.b0.toNat := by rw [hb]; decide
  have done : xPace s = opDone (.vec (unpack s.rxf.b2)) (paced s) :=
    h.xPace_eq.trans (afterExchange_of_code (s := paced s) hv hc hb)
  rw [opDone_of_switcher (s := paced s) h.ss, pack_unpack] at done
  rw [h.drive_eq rest (by rw [done]; rfl) (by rw [done]), done]
  rfl

end

/-- Garbage chunks within MAX_DISCARD are read and discarded one after another (R180, R183). -/
theorem drive_garbage (rest : List LineAct) (gs : List Quad) : ∀ {s : State}, Waiting s → s.cn = 0 →
    (∀ g ∈ gs, g.b0.toNat < 0xF0) → (∀ m, s.maxDiscard = some m → s.disc + gs.length ≤ m) →
    ∃ q, drive (gs.flatMap quadActs ++ rest) s =
      drive rest { s with ch := q, disc := s.disc + gs.length, ev := s.ev ++ gs.flatMap discardEvents } := by
  induction gs with
  | nil =>
    intro s _ _ _ _
    exact ⟨s.ch, by simp⟩
  | cons g gs ih =>
    intro s w hn hg hm
    have below : s.maxDiscard ≠ some s.disc := fun h => by
      have := hm _ h
      simp at this
    let t : State := { s with ch := g, disc := s.disc + 1, ev := s.ev ++ discardEvents g }
    have discards : drive (quadActs g ++ (gs.flatMap quadActs ++ rest)) s = drive (gs.flatMap quadActs ++ rest) t := by
      rw [drive_chunk g _ w.reading hn w.empty w.isOpen w.usable,
        endChunk_of_garbage (s := chunkTaken g s) (Nat.succ_pos 3) (hg g (.head gs)) below]
      simp [t, chunkTaken, discardEvents, chunkBytes, Quad.toList, hn, w.empty]
    obtain ⟨q, others⟩ := ih (s := t) ⟨w.reading, w.empty, w.isOpen, w.usable⟩ hn (fun x hx => hg x (.tail g hx))
      fun m h => by
        have := hm m h
        rw [List.length_cons] at this
        show s.disc + 1 + gs.length ≤ m
        omega
    refine ⟨q, ?_⟩
    rw [List.flatMap_cons, List.append_assoc, discards, others]
    simp [t, Nat.add_comm, Nat.add_left_comm]

/-! ## One iteration of SWITCHER (R248) -/

/-- What an iteration does once its exchange phase is over: the push and the settle wait (R245, R247). -/
def swFinish (s : State) : State := swPhase .settle swSettle (swPhase .push (fun t => (swPush t).getD t) s)

theorem swPhase_of_eq {x : SState} {f : State → State} {s : State} (h : s.ss = x) : swPhase x f s = f s := if_pos h

theorem swFinish_of_top {s : State} (hs : s.ss = .top) : swFinish s = s := by
  simp [swFinish, swPhase, hs]

theorem swFinish_of_push {s : State} (hs : s.ss = .push) (hd : s.params.qdepthRes = none) :
    swFinish s = { s with ss := .top, resq := ⟨s.resq.items ++ [s.lres], s.resq.vis, s.resq.freed⟩
                          ev := s.ev ++ [.push (.resq s.lres), .wait .settle s.lreq.settle] } := by
  have room : fifoRoom s.params.qdepthRes s.resq 1 = true := by simp [fifoRoom_iff, hd]
  simp [swFinish, swPhase, hs, swPush_of_room room, swSettle, emit]

/-- SWITCHER is at its top with `r` to serve, `queue` behind it in an unbounded REQQ. -/
structure ReadyToServe (r : PendingRequest) (queue : List PendingRequest) (s : State) : Prop where
  top : s.ss = .top
  quiet : s.intrSw = false
  items : s.reqq.items = r :: queue
  visible : 0 < s.reqq.vis
  depth : s.params.qdepthReq = none
  xs : s.xs = .idle
  ps : s.ps = .idle
  cop : s.cop = .none

section
variable {r : PendingRequest} {queue : List PendingRequest} {s : State}

/-- SWITCHER has popped `r` and loaded the frame that serves it (R242, R243). -/
def serveLoaded (r : PendingRequest) (queue : List PendingRequest) (s : State) : State :=
  clientLoaded (requestQuad 3 s.params.cardId r.target)
    (requestPopped r ⟨queue, s.reqq.vis - 1, s.reqq.freed⟩ s)

/-- An iteration that finds a request is its SETALL, driven, and what follows it. -/
theorem ReadyToServe.exec_swIter (h : ReadyToServe r queue s) :
    exec .swIter s = .next (swFinish (driveOp (startExchange .setall (serveLoaded r queue s)))) := by
  let t := requestPopped r ⟨queue, s.reqq.vis - 1, s.reqq.freed⟩ s
  have atTop : swPhase .top swTop s = { s with ss := .wait } := by
    rw [swPhase_of_eq h.top, swTop_of_no_intr h.quiet]
  have pops : swPop { s with ss := .wait } = some t := by
    rw [swPop_of_head (s := { s with ss := .wait }) ((fifoHead_eq_some_iff h.items).mpr h.visible)]
    simp only [h.depth, fifoPop_none h.items]
    rfl
  have atWait : swPhase .wait (fun u => (swPop u).getD (swPoll u)) { s with ss := .wait } = t := by
    rw [swPhase_of_eq (x := .wait) (by rfl), pops]
    rfl
  have fresh : swNotStarted t = true := by simp [swNotStarted, t, requestPopped, h.xs, h.cop]
  have atExch : swPhase .exch swExchange t = driveOp (startExchange .setall (serveLoaded r queue s)) := by
    rw [swPhase_of_eq (x := .exch) (by rfl), swExchange_eq fresh]
    rfl
  show Host.Outcome.next (swIteration s) = _
  rw [swIteration, atTop, atWait, atExch]
  rfl

/-- On an open transport the SETALL starts its exchange. -/
theorem ReadyToServe.exec_swIter_of_open (h : ReadyToServe r queue s) (ho : s.isOpen = true) {acts : List LineAct}
    (hl : s.lineIn = acts) :
    exec .swIter s = .next (swFinish (drive acts (swStarted (serveLoaded r queue s)))) := by
  rw [h.exec_swIter, startExchange_of_switcher (s := serveLoaded r queue s) ho rfl, ← hl]
  rfl

/-- An iteration whose SETALL fails ends in SWITCHER's error (R244). -/
theorem ReadyToServe.exec_swIter_of_failed (h : ReadyToServe r queue s) (ho : s.isOpen = true)
    {acts rest : List LineAct} (hl : s.lineIn = acts) {u : State} {e : Error} (pacing : SwPacing u)
    (reads : drive acts (swStarted (serveLoaded r queue s)) = drive rest u) (hf : xPace u = opFail e (paced u)) :
    exec .swIter s =
      .next { u with xs := .idle, ps := .idle, cop := .none, ss := .top, lineIn := rest, errlog := u.errlog ++ [e],
                     ev := u.ev ++ [.wait .pace u.params.tPaceMs, .err e] } := by
  rw [h.exec_swIter_of_open ho hl, reads, pacing.drive_failed rest hf, swFinish_of_top (by rfl)]

/-- The state registers of SWITCHER and of the transport are written out, so that the end of an iteration is seen to
leave them as they were. -/
theorem ReadyToServe.exists_eq (h : ReadyToServe r queue s) :
    ∃ t : State, s = { t with ss := .top, xs := .idle, ps := .idle, cop := .none } :=
  ⟨s, by rw [← h.top, ← h.xs, ← h.ps, ← h.cop]⟩

end

/-- Settles O41: the SETALL is answered by the echo, which is then pushed. -/
theorem swIterServes : Obligations.SwIterServes := by
  intro r queue c q rest s hs hi hitems hv hdq hds hx hp hc ho hu hb hk hl hq
  have ready : ReadyToServe r queue s := ⟨hs, hi, hitems, hv, hdq, hx, hp, hc⟩
  have candidate : 0xF0 ≤ c.b0.toNat := by rw [hb]; decide
  let u := accepted c (requested (swStarted (serveLoaded r queue s)))
  have pacing : SwPacing u := ⟨rfl, rfl, rfl⟩
  have reads : drive (quadActs c ++ rest) (swStarted (serveLoaded r queue s)) = drive rest u :=
    drive_accept (s := swStarted (serveLoaded r queue s)) c rest rfl ho hu candidate hk
  rw [ready.exec_swIter_of_open ho hl, reads, pacing.drive_echo rest rfl hb, swFinish_of_push (by rfl) (by exact hds)]
  obtain ⟨t, rfl⟩ := ready.exists_eq
  subst hq
  simp [u, accepted, requested, swStarted, serveLoaded, clientLoaded, requestPopped, exchangeEvents]

/-- Settles O42: by what the line does, one of the five ways in which the SETALL fails. -/
theorem swIterLogsErrors : Obligations.SwIterLogsErrors := by
  intro r queue q c gs rest s e hs hi hitems hv hdq hx hp hc hq
  have ready : ReadyToServe r queue s := ⟨hs, hi, hitems, hv, hdq, hx, hp, hc⟩
  subst hq
  let u := swStarted (serveLoaded r queue s)
  refine ⟨fun ho hl (he : e = errConnTrunc 0) => ?_, fun ho (he : e = errConnClosed) => ?_,
    fun ho hu hcand hb hk hl (he : e = errProto (respCode 3) c.b0) => ?_,
    fun ho hu hcand hverify hbad hl (he : e = errCsum c) => ?_,
    fun ho hu hm hg hcg hl (he : e = errDesync gs.length) => ?_⟩
  case refine_1 =>
    have reads := ((drive_flush rfl _).trans (drive_silence (s := requested u) rest rfl (Nat.succ_pos 3) rfl)).trans
      (congrArg (drive rest) (endChunk_of_empty rfl))
    rw [ready.exec_swIter_of_failed ho hl ⟨rfl, rfl, rfl⟩ reads (SwPacing.xPace_of_error ⟨rfl, rfl, rfl⟩ rfl)]
    obtain ⟨t, rfl⟩ := ready.exists_eq
    simp [he, u, requested, swStarted, serveLoaded, clientLoaded, requestPopped, silentEvents]
  case refine_2 =>
    have start : startExchange .setall (serveLoaded r queue s) = opFail errConnClosed (serveLoaded r queue s) :=
      if_neg (by simp [serveLoaded, clientLoaded, requestPopped, ho])
    obtain ⟨idle, none⟩ := opFail_idle errConnClosed (serveLoaded r queue s) hx
    rw [ready.exec_swIter, start, driveOp_ended idle none, opFail_of_switcher (by rfl), swFinish_of_top (by rfl)]
    obtain ⟨t, rfl⟩ := ready.exists_eq
    simp [he, serveLoaded, clientLoaded, requestPopped]
  case refine_3 =>
    have reads := drive_accept (s := u) c rest rfl ho hu hcand hk
    rw [ready.exec_swIter_of_failed ho hl ⟨rfl, rfl, rfl⟩ reads
      (SwPacing.xPace_of_wrongCode ⟨rfl, rfl, rfl⟩ rfl hcand hb)]
    obtain ⟨t, rfl⟩ := ready.exists_eq
    simp [he, u, accepted, requested, swStarted, serveLoaded, clientLoaded, requestPopped, exchangeEvents]
  case refine_4 =>
    have fails : ¬ checkPasses s c := by simp [checkPasses, hverify, hbad]
    have reads := ((drive_flush rfl _).trans (drive_chunk (s := requested u) c rest rfl rfl rfl ho hu)).trans
      (congrArg (drive rest) (endChunk_of_csum (s := chunkTaken c (requested u)) rfl hcand fails))
    rw [ready.exec_swIter_of_failed ho hl ⟨rfl, rfl, rfl⟩ reads (SwPacing.xPace_of_error ⟨rfl, rfl, rfl⟩ rfl)]
    obtain ⟨t, rfl⟩ := ready.exists_eq
    simp [he, u, chunkTaken, requested, swStarted, serveLoaded, clientLoaded, requestPopped, exchangeEvents,
      Quad.toList]
  case refine_5 =>
    have within : ∀ m, s.maxDiscard = some m → 0 + gs.length ≤ m := fun m h => by
      rw [hm, Option.some.injEq] at h
      omega
    obtain ⟨g, garbage⟩ := drive_garbage (quadActs c ++ rest) gs (s := requested u) ⟨rfl, rfl, ho, hu⟩ rfl hg within
    let v : State := { requested u with ch := g, disc := 0 + gs.length
                                        ev := (requested u).ev ++ gs.flatMap discardEvents }
    have limit : (chunkTaken c v).maxDiscard = some (chunkTaken c v).disc := by
      show s.maxDiscard = some (0 + gs.length)
      rw [hm, Nat.zero_add]
    have reads := (((drive_flush rfl _).trans garbage).trans
      (drive_chunk (s := v) c rest rfl rfl rfl ho hu)).trans
      (congrArg (drive rest) (endChunk_of_desync (s := chunkTaken c v) (Nat.succ_pos 3) hcg limit))
    rw [List.append_assoc] at hl
    rw [ready.exec_swIter_of_failed ho hl ⟨rfl, rfl, rfl⟩ reads (SwPacing.xPace_of_error ⟨rfl, rfl, rfl⟩ rfl)]
    obtain ⟨t, rfl⟩ := ready.exists_eq
    simp [he, u, v, chunkTaken, requested, swStarted, serveLoaded, clientLoaded, requestPopped, chunkBytes, Quad.toList]

end Sys2Proof.Machine

namespace Sys2Proof.Machine

/-! ## What the consumer of a FIFO sees of the steps of others (R229, R231) -/

section
variable {α : Type} {q : Fifo α} {v : α}

theorem fifoHead_append (vs : List α) (h : fifoHead q = some v) :
    fifoHead { q with items := q.items ++ vs } = some v := by
  obtain ⟨hv, rest, hi⟩ := fifoHead_some h
  simp [fifoHead, hv, hi]

theorem fifoHead_syncW (n : Nat) (h : fifoHead q = some v) : fifoHead (fifoSyncW n q) = some v := by
  obtain ⟨hv, rest, hi⟩ := fifoHead_some h
  refine (fifoHead_eq_some_iff ((fifoSyncW_items n q).trans hi)).mpr ?_
  unfold fifoSyncW
  split
  · rename_i allowed
    exact hv.trans allowed.1
  · exact hv

theorem fifoHead_syncR (depth : Option Nat) (n : Nat) (h : fifoHead q = some v) :
    fifoHead (fifoSyncR depth n q) = some v := by
  unfold fifoSyncR
  split <;> exact h

end

/-! ## A visible entry is served in the end (R12, R242, R250, log 24) -/

/-- In a run that is fair to the worker's step `a`, a worker that polls with an entry visible comes to `goal`, if its
own step brings it there when it is ready, and when it is not brings it there or makes it ready, and the steps of the
others leave it polling. -/
theorem exists_goal_of_polling {a : AgentStep} {ready polls : State → Prop} {goal : Nat → Prop}
    {schedule : Nat → Action} {states : Nat → State} {n : Nat} (fair : WeaklyFair a schedule states)
    (served : Served a ready schedule states) (start : polls (states n))
    (others : ∀ k, polls (states k) → schedule k ≠ .agent a → polls (states (k + 1)))
    (enabled : ∀ s, polls s → ¬ ready s → isEnabled a s)
    (turn : ∀ k, polls (states k) → ¬ ready (states k) → schedule k = .agent a →
      goal (k + 1) ∨ polls (states (k + 1)) ∧ ready (states (k + 1)))
    (serve : ∀ k, polls (states k) → ready (states k) → schedule k = .agent a → goal k) :
    ∃ k, n ≤ k ∧ goal k := by
  by_contra never
  push Not at never
  have polling : ∀ k, n ≤ k → polls (states k) := fun k hk => by
    induction k, hk using Nat.le_induction with
    | base => exact start
    | succ k hk ih =>
      by_cases ha : schedule k = .agent a
      · by_cases hr : ready (states k)
        · exact absurd (serve k ih hr ha) (never k hk)
        · exact ((turn k ih hr ha).resolve_left (never (k + 1) (by omega))).1
      · exact others k ih ha
  have recurs : ∀ j, n ≤ j → ∃ k, j ≤ k ∧ ready (states k) := fun j hj => by
    by_contra unready
    push Not at unready
    obtain ⟨k, hk, ha⟩ := fair j fun k hk => enabled _ (polling k (by omega)) (unready k hk)
    rcases turn k (polling k (by omega)) (unready k hk) ha with reached | ⟨-, ready⟩
    · exact never (k + 1) (by omega) reached
    · exact unready (k + 1) (by omega) ready
  obtain ⟨k, hk, ready, ha⟩ := served n recurs
  exact never k hk (serve k (polling k hk) ready ha)

/-! ## SWITCHER polls (R240 to R242) -/

/-- SWITCHER goes round its loop, `r` being the oldest entry that it sees of REQQ. -/
structure SwPolls (r : PendingRequest) (s : State) : Prop where
  looping : s.ss = .top ∨ s.ss = .wait
  head : fifoHead s.reqq = some r

section
variable {r : PendingRequest} {s t : State}

theorem SwPolls.of_eq (h : SwPolls r s) (hs : t.ss = s.ss) (hq : t.reqq = s.reqq) : SwPolls r t :=
  ⟨by rw [hs]; exact h.looping, by rw [hq]; exact h.head⟩

theorem SwPolls.withReqq (h : SwPolls r s) {q : Fifo PendingRequest} (hq : fifoHead q = some r) :
    SwPolls r { s with reqq := q } :=
  ⟨h.looping, hq⟩

theorem SwPolls.not_hostHolds (h : SwPolls r s) : ¬ hostHolds s = true := by
  rw [hostHolds_iff]
  rcases h.looping with hs | hs <;> simp [hs]

theorem SwPolls.not_exch (h : SwPolls r s) : s.ss ≠ .exch := by
  rcases h.looping with hs | hs <;> simp [hs]

theorem SwPolls.feRetry (h : SwPolls r s) : SwPolls r (feRetry s) := by
  rcases feRetry_cases s with he | ⟨q, rest, t, -, hp, he⟩ <;> rw [he]
  · exact h
  · obtain ⟨-, rfl⟩ := fePush_some hp
    rw [pushAll_eq]
    exact ⟨h.looping, fifoHead_append _ h.head⟩

/-- No other agent's step takes the request away, or SWITCHER out of its loop; the Timeout takes it to its top. -/
theorem SwPolls.agentStep (h : SwPolls r s) {a : AgentStep} (hr : a ≠ .reset) (hs : a ≠ .switcher) :
    answers (SwPolls r) (agentStep a s) := by
  cases a with
  | reset => exact absurd rfl hr
  | switcher => exact absurd rfl hs
  | issue q => exact fun t ht => absurd (issueRequest_next ht).1 h.not_hostHolds
  | writeCsumVerify v =>
    rw [agentStep_writeCsumVerify]
    exact fun t ht => absurd (writeControl_next ht).1 h.not_hostHolds
  | writeMaxDiscard m =>
    rw [agentStep_writeMaxDiscard]
    exact fun t ht => absurd (writeControl_next ht).1 h.not_hostHolds
  | own =>
    refine answers_next ?_
    rw [ownStep, if_neg h.not_exch]
    cases ho : ownerStep s with
    | none => exact h
    | some t => exact h.of_eq (ownerStep_ss h.not_exch ho) (congrArg State.reqq (outsideExchange_ownerStep ho) :)
  | display =>
    refine answers_next ?_
    cases hd : dpStep s with
    | none => exact h
    | some t =>
      rcases dpStep_cases hd with ⟨-, rfl⟩ | ⟨v, -, -, rfl⟩
      · unfold dpTop
        split <;> exact h.of_eq rfl rfl
      · exact h.of_eq rfl rfl
  | frontEnd => exact answers_next h.feRetry
  | arrive b =>
    refine answers_next ?_
    rcases rxArrive_cases b s with ⟨-, -, he⟩ | ⟨-, he⟩ <;> rw [he] <;> exact h.of_eq rfl rfl
  | readTimeout =>
    refine answers_next ?_
    unfold readTimeout
    split
    · exact h.of_eq (endChunk_ss s) (congrArg State.reqq (outsideExchange_endChunk s) :)
    · exact h
  | pollSw =>
    refine answers_next ?_
    unfold swPoll
    split
    · exact ⟨.inl rfl, h.head⟩
    · exact h
  | pollDp =>
    refine answers_next ?_
    unfold dpPoll
    split <;> exact h.of_eq rfl rfl
  | syncReqW n => exact answers_next (h.withReqq (fifoHead_syncW n h.head))
  | syncReqR n => exact answers_next (h.withReqq (fifoHead_syncR _ n h.head))
  | sampleIntr w => cases w <;> exact answers_next (h.of_eq rfl rfl)
  | syncResW | syncResR | driveIntr | driveLineOk => exact answers_next (h.of_eq rfl rfl)
  | readReg c =>
    intro t ht
    obtain ⟨-, -, rfl⟩ := readControl_next ht
    exact h.of_eq (afterRead_ss c s) (afterRead_reqq c s)

theorem SwPolls.popReady_iff (h : SwPolls r s) : popReady s ↔ s.ss = .wait := by
  simp [popReady, h.head]

theorem SwPolls.top_of_not_popReady (h : SwPolls r s) (hr : ¬ popReady s) : s.ss = .top :=
  h.looping.resolve_right (mt h.popReady_iff.mpr hr)

/-- At its top SWITCHER has a step: it exits, or it waits (R240). -/
theorem SwPolls.isEnabled (h : SwPolls r s) (hr : ¬ popReady s) : isEnabled .switcher s := by
  have hs := h.top_of_not_popReady hr
  refine ⟨_, agentStep_switcher (swStep_top hs), fun same => ?_⟩
  have moved : (swTop s).ss ≠ .top := by
    cases hi : s.intrSw with
    | false => simp [swTop_of_no_intr hi]
    | true => simp [swTop_of_intr hi]
  exact moved ((congrArg State.ss same).trans hs)

end

/-! ## An iteration of SWITCHER that serves nothing (R240, R241, R253) -/

/-- The last three phases of an iteration are not taken at the top of the loop, and outside it. -/
theorem swFinish_of_ended {s : State} (hs : s.ss = .top ∨ s.ss = .stopped ∨ s.ss = .exited) :
    swFinish (swPhase .exch swExchange s) = s := by
  rcases hs with hs | hs | hs <;> simp [swFinish, swPhase, hs]

theorem swPhase_of_ne {x : SState} {f : State → State} {s : State} (h : s.ss ≠ x) : swPhase x f s = s := if_neg h

theorem exec_swIter_eq (s : State) : exec .swIter s = .next (swFinish (swPhase .exch swExchange
    (swPhase .wait (fun t => (swPop t).getD (swPoll t)) (swPhase .top swTop s)))) := rfl

theorem exec_swIter_of_hidden {s : State} (hs : s.ss = .top) (hi : s.intrSw = false) (hv : s.reqq.vis = 0) :
    exec .swIter s = .next s := by
  have timeout : swPhase .wait (fun t => (swPop t).getD (swPoll t)) { s with ss := .wait } = s := by
    rw [swPhase_of_eq (x := .wait) (by rfl), swPop_of_hidden (by exact hv), Option.getD_none, swPoll_of_wait (by rfl),
      ← hs]
  rw [exec_swIter_eq, swPhase_of_eq hs, swTop_of_no_intr hi, timeout, swFinish_of_ended (.inl hs)]

theorem exec_swIter_of_intr {s : State} (hs : s.ss = .top) (hi : s.intrSw = true) :
    exec .swIter s = .next { s with doneSw := true, ss := .exited, ev := s.ev ++ [.exited .sw] } := by
  rw [exec_swIter_eq, swPhase_of_eq hs, swTop_of_intr hi, swPhase_of_ne (x := .wait) (by simp),
    swFinish_of_ended (.inr (.inr rfl))]

theorem exec_swIter_of_not_running {s : State} (hs : s.ss = .stopped ∨ s.ss = .exited) :
    exec .swIter s = .next s := by
  have outside : s.ss ≠ .top ∧ s.ss ≠ .wait := by rcases hs with hs | hs <;> simp [hs]
  rw [exec_swIter_eq, swPhase_of_ne outside.1, swPhase_of_ne outside.2, swFinish_of_ended (.inr hs)]

/-- A step of a run in which the environment offers agents' steps is that step. -/
theorem IsRun.step_agent {schedule : Nat → Action} {states : Nat → State} (run : IsRun schedule states) {k : Nat}
    {a : AgentStep} (ha : schedule k = .agent a) : agentStep a (states k) = .next (states (k + 1)) := by
  have stepped := run k
  rwa [ha, step_offer_agent] at stepped

theorem IsRun.next_eq {schedule : Nat → Action} {states : Nat → State} (run : IsRun schedule states) {k : Nat}
    {a : AgentStep} {t : State} (ha : schedule k = .agent a) (ht : agentStep a (states k) = .next t) :
    states (k + 1) = t :=
  Host.Outcome.next.inj ((run.step_agent ha).symm.trans ht)

/-- Settles O43: an iteration by the state it begins in, and for the run that the polling SWITCHER comes to its Pop. -/
theorem swIterIdlesAndExits : Obligations.SwIterIdlesAndExits := by
  refine ⟨fun s => ⟨exec_swIter_of_hidden, exec_swIter_of_intr, exec_swIter_of_not_running⟩, ?_⟩
  intro schedule states n r rest run ⟨fair, popServed, _⟩ atomic hs hv hi
  refine exists_goal_of_polling (fair .switcher rfl) popServed (polls := SwPolls r)
    ⟨hs, (fifoHead_eq_some_iff hi).mpr hv⟩ (fun k h hk => ?_) (fun s h hr => h.isEnabled hr) (fun k h hr hk => ?_)
    (fun k h hr hk => ?_)
  · obtain ⟨a, ha, hreset⟩ := atomic k
    exact h.agentStep hreset (fun hsw => hk (hsw ▸ ha)) _ (run.step_agent ha)
  · have top := h.top_of_not_popReady hr
    rw [run.next_eq hk (agentStep_switcher (swStep_top top))]
    cases hi : (states k).intrSw with
    | true => exact .inl (.inl (by rw [swTop_of_intr hi]))
    | false =>
      rw [swTop_of_no_intr hi]
      exact .inr ⟨⟨.inr rfl, h.head⟩, rfl, by simp [h.head]⟩
  · have waits := h.popReady_iff.mp hr
    rw [run.next_eq hk (agentStep_switcher ((swStep_wait waits).trans (swPop_of_head h.head)))]
    exact .inr ⟨hk, waits, rfl, rfl, rfl⟩

end Sys2Proof.Machine

namespace Sys2Proof.Machine

/-! ## The steps of DISPLAY (R249 to R251): one equation per outcome -/

section
variable {s t : State} {v : Byte}

theorem agentStep_display (h : dpStep s = some t) : agentStep .display s = .next t := by
  simp [agentStep, h]

theorem agentStep_display_of_none (h : dpStep s = none) : agentStep .display s = .next s := by
  simp [agentStep, h]

theorem dpStep_top (hs : s.ds = .top) : dpStep s = some (dpTop s) := by simp [dpStep, hs]

theorem dpStep_wait (hs : s.ds = .wait) : dpStep s = dpDeliver s := by simp [dpStep, hs]

theorem dpStep_of_not_running (hs : s.ds = .stopped ∨ s.ds = .exited) : dpStep s = none := by
  rcases hs with hs | hs <;> simp [dpStep, hs]

theorem dpTop_of_intr (h : s.intrDp = true) :
    dpTop s = { s with doneDp := true, ds := .exited, ev := s.ev ++ [.exited .dp] } := by
  simp [dpTop, h, emit]

theorem dpTop_of_no_intr (h : s.intrDp = false) : dpTop s = { s with ds := .wait } := by
  simp [dpTop, h]

theorem dpPoll_of_wait (hs : s.ds = .wait) : dpPoll s = { s with ds := .top } := if_pos hs

/-- DISPLAY has delivered `v`, and RESQ is `q` (R251). -/
def delivered (v : Byte) (q : Fifo Byte) (s : State) : State :=
  { s with ds := .top, cur := v, curv := true, resq := q, ev := s.ev ++ [.pop (.resq v), .notify v] }

theorem dpDeliver_of_head (h : fifoHead s.resq = some v) :
    dpDeliver s = some (delivered v (fifoPop s.params.qdepthRes s.resq) s) := by
  simp [dpDeliver, h, popRes, emit, delivered]

theorem dpDeliver_of_hidden (h : s.resq.vis = 0) : dpDeliver s = none := by
  simp [dpDeliver, fifoHead_of_hidden h]

end

/-! ## One iteration of DISPLAY (R252) -/

section
variable {s : State} {v : Byte} {rest : List Byte} {q : Fifo Byte}

theorem exec_dpIter_eq (s : State) : exec .dpIter s =
    .next (dpPhase .wait (fun t => (dpDeliver t).getD (dpPoll t)) (dpPhase .top dpTop s)) := rfl

theorem dpPhase_of_eq {x : DState} {f : State → State} (h : s.ds = x) : dpPhase x f s = f s := if_pos h

theorem dpPhase_of_ne {x : DState} {f : State → State} (h : s.ds ≠ x) : dpPhase x f s = s := if_neg h

/-- Without an interrupt the iteration delivers, or meets its poll timeout (R250, R251). -/
theorem exec_dpIter_of_no_intr (hs : s.ds = .top) (hi : s.intrDp = false) :
    exec .dpIter s = .next ((dpDeliver { s with ds := .wait }).getD s) := by
  have timeout : dpPoll { s with ds := .wait } = s := by rw [dpPoll_of_wait rfl, ← hs]
  rw [exec_dpIter_eq, dpPhase_of_eq hs, dpTop_of_no_intr hi, dpPhase_of_eq (x := .wait) (by rfl), timeout]

theorem exec_dpIter_of_head (hs : s.ds = .top) (hi : s.intrDp = false) (hitems : s.resq.items = v :: rest)
    (hv : 0 < s.resq.vis) (hq : fifoPop s.params.qdepthRes s.resq = q) :
    exec .dpIter s = .next { s with cur := v, curv := true, resq := q,
                                    ev := s.ev ++ [.pop (.resq v), .notify v] } := by
  rw [exec_dpIter_of_no_intr hs hi,
    dpDeliver_of_head (s := { s with ds := .wait }) ((fifoHead_eq_some_iff hitems).mpr hv), Option.getD_some]
  simp [delivered, hq, hs]

theorem exec_dpIter_of_hidden (hs : s.ds = .top) (hi : s.intrDp = false) (hv : s.resq.vis = 0) :
    exec .dpIter s = .next s := by
  rw [exec_dpIter_of_no_intr hs hi, dpDeliver_of_hidden (by exact hv), Option.getD_none]

theorem exec_dpIter_of_intr (hs : s.ds = .top) (hi : s.intrDp = true) :
    exec .dpIter s = .next { s with doneDp := true, ds := .exited, ev := s.ev ++ [.exited .dp] } := by
  rw [exec_dpIter_eq, dpPhase_of_eq hs, dpTop_of_intr hi, dpPhase_of_ne (x := .wait) (by simp)]

theorem exec_dpIter_of_not_running (hs : s.ds = .stopped ∨ s.ds = .exited) : exec .dpIter s = .next s := by
  have outside : s.ds ≠ .top ∧ s.ds ≠ .wait := by rcases hs with hs | hs <;> simp [hs]
  rw [exec_dpIter_eq, dpPhase_of_ne outside.1, dpPhase_of_ne outside.2]

/-- Delivery takes the oldest visible confirmation (R251). -/
theorem agentStep_display_of_head (hs : s.ds = .wait) (hitems : s.resq.items = v :: rest) (hv : 0 < s.resq.vis)
    (hq : fifoPop s.params.qdepthRes s.resq = q) : agentStep .display s = .next (delivered v q s) :=
  agentStep_display <| by
    rw [dpStep_wait hs, dpDeliver_of_head ((fifoHead_eq_some_iff hitems).mpr hv), hq]

end

/-! ## DISPLAY polls (R249, R250) -/

/-- DISPLAY goes round its loop, `v` being the oldest entry that it sees of RESQ. -/
structure DpPolls (v : Byte) (s : State) : Prop where
  looping : s.ds = .top ∨ s.ds = .wait
  head : fifoHead s.resq = some v

section
variable {v : Byte} {s t : State}

theorem DpPolls.of_eq (h : DpPolls v s) (hs : t.ds = s.ds) (hq : t.resq = s.resq) : DpPolls v t :=
  ⟨by rw [hs]; exact h.looping, by rw [hq]; exact h.head⟩

theorem DpPolls.withResq (h : DpPolls v s) {q : Fifo Byte} (hq : fifoHead q = some v) :
    DpPolls v { s with resq := q } :=
  ⟨h.looping, hq⟩

/-- What an exchange may write is neither DISPLAY's state nor RESQ. -/
theorem DpPolls.of_outsideExchange (h : DpPolls v s) (ht : outsideExchange t = outsideExchange s) : DpPolls v t :=
  h.of_eq (congrArg State.ds ht :) (congrArg State.resq ht :)

theorem DpPolls.startExchange (h : DpPolls v s) (op : ClientOp) : DpPolls v (startExchange op s) :=
  h.of_outsideExchange (outsideExchange_startExchange op s)

theorem DpPolls.sendFrame (h : DpPolls v s) (op : ClientOp) (c a d : Byte) : DpPolls v (sendFrame op c a d s) :=
  DpPolls.startExchange (s := loadTxf c a d { s with ps := .busy }) (h.of_eq rfl rfl) op

theorem DpPolls.startRequest (h : DpPolls v s) (r : ClientRequest) : DpPolls v (startRequest r s) := by
  rcases startRequest_cases r s with ⟨e, he⟩ | he | ⟨op, c, a, d, -, -, he⟩ <;> rw [he]
  · exact h.of_eq rfl rfl
  · unfold startRaw
    split
    · exact DpPolls.startExchange (s := takeRequest s) (h.of_eq rfl rfl) .raw
    · exact h.startExchange .raw
  · exact h.sendFrame op c a d

theorem DpPolls.swStep (h : DpPolls v s) (ht : swStep s = some t) : DpPolls v t := by
  rcases swStep_cases ht with ⟨-, rfl⟩ | ⟨r, -, -, rfl⟩ | ⟨-, -, rfl⟩ | ⟨-, ho⟩ | ⟨-, -, rfl⟩ | ⟨-, rfl⟩
  · unfold swTop
    split <;> exact h.of_eq rfl rfl
  · exact h.of_eq rfl rfl
  · exact h.sendFrame _ _ _ _
  · exact h.of_outsideExchange (outsideExchange_ownerStep ho)
  · exact ⟨h.looping, fifoHead_append [s.lres] h.head⟩
  · exact h.of_eq rfl rfl

theorem DpPolls.feRetry (h : DpPolls v s) : DpPolls v (feRetry s) := by
  rcases feRetry_cases s with he | ⟨q, rest, t, -, hp, he⟩ <;> rw [he]
  · exact h
  · obtain ⟨-, rfl⟩ := fePush_some hp
    rw [pushAll_eq]
    exact h.of_eq rfl rfl

/-- No other agent's step takes the confirmation away, or DISPLAY out of its loop; the Timeout takes it to its top. -/
theorem DpPolls.agentStep (h : DpPolls v s) {a : AgentStep} (hr : a ≠ .reset) (hd : a ≠ .display) :
    answers (DpPolls v) (agentStep a s) := by
  cases a with
  | reset => exact absurd rfl hr
  | display => exact absurd rfl hd
  | issue q =>
    intro t ht
    obtain ⟨-, -, -, rfl⟩ := issueRequest_next ht
    exact h.startRequest q
  | writeCsumVerify b =>
    rw [agentStep_writeCsumVerify]
    intro t ht
    obtain ⟨-, -, rfl⟩ := writeControl_next ht
    exact h.of_eq rfl rfl
  | writeMaxDiscard m =>
    rw [agentStep_writeMaxDiscard]
    intro t ht
    obtain ⟨-, -, rfl⟩ := writeControl_next ht
    exact h.of_eq rfl rfl
  | readReg c =>
    intro t ht
    obtain ⟨-, -, rfl⟩ := readControl_next ht
    exact h.of_eq (afterRead_ds c s) (afterRead_resq c s)
  | own =>
    refine answers_next ?_
    unfold ownStep
    split
    · exact h
    · cases ho : ownerStep s with
      | none => exact h
      | some t => exact h.of_outsideExchange (outsideExchange_ownerStep ho)
  | switcher =>
    refine answers_next ?_
    cases hs : Machine.swStep s with
    | none => exact h
    | some t => exact h.swStep hs
  | frontEnd => exact answers_next h.feRetry
  | arrive b =>
    refine answers_next ?_
    rcases rxArrive_cases b s with ⟨-, -, he⟩ | ⟨-, he⟩ <;> rw [he] <;> exact h.of_eq rfl rfl
  | readTimeout =>
    refine answers_next ?_
    unfold readTimeout
    split
    · exact h.of_outsideExchange (outsideExchange_endChunk s)
    · exact h
  | pollSw =>
    refine answers_next ?_
    unfold swPoll
    split <;> exact h.of_eq rfl rfl
  | pollDp =>
    refine answers_next ?_
    unfold dpPoll
    split
    · exact ⟨.inl rfl, h.head⟩
    · exact h
  | syncResW n => exact answers_next (h.withResq (fifoHead_syncW n h.head))
  | syncResR n => exact answers_next (h.withResq (fifoHead_syncR _ n h.head))
  | sampleIntr w => cases w <;> exact answers_next (h.of_eq rfl rfl)
  | syncReqW | syncReqR | driveIntr | driveLineOk => exact answers_next (h.of_eq rfl rfl)

theorem DpPolls.deliverReady_iff (h : DpPolls v s) : deliverReady s ↔ s.ds = .wait := by
  simp [deliverReady, h.head]

theorem DpPolls.top_of_not_deliverReady (h : DpPolls v s) (hr : ¬ deliverReady s) : s.ds = .top :=
  h.looping.resolve_right (mt h.deliverReady_iff.mpr hr)

/-- At its top DISPLAY has a step: it exits, or it waits (R249). -/
theorem DpPolls.isEnabled (h : DpPolls v s) (hr : ¬ deliverReady s) : isEnabled .display s := by
  have hs := h.top_of_not_deliverReady hr
  refine ⟨_, agentStep_display (dpStep_top hs), fun same => ?_⟩
  have moved : (dpTop s).ds ≠ .top := by
    cases hi : s.intrDp with
    | false => simp [dpTop_of_no_intr hi]
    | true => simp [dpTop_of_intr hi]
  exact moved ((congrArg State.ds same).trans hs)

end

/-- Settles O44: an iteration and a step by the state it begins in, and for the run that the polling DISPLAY comes to
its delivery. -/
theorem dpIterOutcomes : Obligations.DpIterOutcomes := by
  constructor
  · intro s
    refine ⟨fun v rest hs hi hitems hv hd => exec_dpIter_of_head hs hi hitems hv (by rw [hd, fifoPop_none hitems]),
      fun v rest d hs hi hitems hv hd => exec_dpIter_of_head hs hi hitems hv (by rw [hd, fifoPop_some d hitems]),
      exec_dpIter_of_hidden, exec_dpIter_of_intr, exec_dpIter_of_not_running, fun hs hi => ?_, fun hs hi => ?_,
      fun v rest freed hs hitems hv hfreed => ?_, fun hs hv => ?_, fun hs => congrArg _ (dpPoll_of_wait hs),
      fun hs => agentStep_display_of_none (dpStep_of_not_running hs)⟩
    · exact agentStep_display ((dpStep_top hs).trans (congrArg some (dpTop_of_intr hi)))
    · exact agentStep_display ((dpStep_top hs).trans (congrArg some (dpTop_of_no_intr hi)))
    · refine agentStep_display_of_head hs hitems hv ?_
      cases hd : s.params.qdepthRes with
      | none => simp [fifoPop_none hitems, hfreed, hd]
      | some d => simp [fifoPop_some d hitems, hfreed, hd]
    · exact agentStep_display_of_none ((dpStep_wait hs).trans (dpDeliver_of_hidden hv))
  · intro schedule states n v rest run ⟨fair, _, deliveryServed⟩ atomic hs hv hi
    refine exists_goal_of_polling (fair .display rfl) deliveryServed (polls := DpPolls v)
      ⟨hs, (fifoHead_eq_some_iff hi).mpr hv⟩ (fun k h hk => ?_) (fun s h hr => h.isEnabled hr) (fun k h hr hk => ?_)
      (fun k h hr hk => ?_)
    · obtain ⟨a, ha, hreset⟩ := atomic k
      exact h.agentStep hreset (fun hdp => hk (hdp ▸ ha)) _ (run.step_agent ha)
    · have top := h.top_of_not_deliverReady hr
      rw [run.next_eq hk (agentStep_display (dpStep_top top))]
      cases hi : (states k).intrDp with
      | true => exact .inl (.inl (by rw [dpTop_of_intr hi]))
      | false =>
        rw [dpTop_of_no_intr hi]
        exact .inr ⟨⟨.inr rfl, h.head⟩, rfl, by simp [h.head]⟩
    · have waits := h.deliverReady_iff.mp hr
      rw [run.next_eq hk (agentStep_display ((dpStep_wait waits).trans (dpDeliver_of_head h.head)))]
      exact .inr ⟨hk, waits, rfl, rfl, rfl⟩

end Sys2Proof.Machine

namespace Sys2Proof.Machine

/-! ## The pointers of the dual-clock FIFO (R233) -/

theorem gray_xor {w : Nat} (a b : BitVec w) : gray (a ^^^ b) = gray a ^^^ gray b := by
  simp only [gray, BitVec.ushiftRight_xor_distrib]
  ac_rfl

/-- The sum of the first `n` shifts of a Gray code telescopes. -/
theorem foldl_gray_shifts {w : Nat} (b : BitVec w) (n : Nat) :
    (List.range n).foldl (fun x i => x ^^^ (gray b >>> i)) 0 = b ^^^ (b >>> n) := by
  induction n with
  | zero => simp
  | succ n ih =>
    have shifted : gray b >>> n = b >>> n ^^^ b >>> (n + 1) := by
      rw [gray, BitVec.ushiftRight_xor_distrib, Nat.add_comm, BitVec.shiftRight_add]
    rw [List.range_succ, List.foldl_append, ih]
    simp [shifted, BitVec.xor_assoc, ← BitVec.xor_assoc (b >>> n)]

/-- Of the telescoped sum only the pointer is left once it has been shifted out. -/
@[simp] theorem ungray_gray {w : Nat} (b : BitVec w) : ungray (gray b) = b := by
  rw [ungray, foldl_gray_shifts, BitVec.ushiftRight_eq_zero (Nat.le_refl w)]
  exact BitVec.xor_zero

theorem gray_inj {w : Nat} {a b : BitVec w} : gray a = gray b ↔ a = b :=
  ⟨fun h => by rw [← ungray_gray a, h, ungray_gray], congrArg gray⟩

/-- A whole lap is the top bit of a pointer, so nothing is carried out of the bits below. -/
theorem add_lap_eq_xor {aw : Nat} (r : BitVec (aw + 1)) :
    r + BitVec.twoPow (aw + 1) aw = r ^^^ BitVec.twoPow (aw + 1) aw := by
  refine BitVec.eq_of_getLsbD_eq fun i hi => ?_
  have low : 2 ^ aw % 2 ^ i = 0 := Nat.mod_eq_zero_of_dvd (Nat.pow_dvd_pow 2 (by omega))
  have uncarried : BitVec.carry i r (BitVec.twoPow (aw + 1) aw) false = false := by
    rw [BitVec.carry, BitVec.toNat_twoPow_of_lt (Nat.lt_succ_self aw), low]
    simp [Nat.mod_lt]
  rw [BitVec.getLsbD_add hi, uncarried, Bool.xor_false, BitVec.getLsbD_xor]

/-- The two bits that the full test inverts are the Gray code of a whole lap. -/
theorem gray_lap {aw : Nat} (h : 1 ≤ aw) : gray (BitVec.twoPow (aw + 1) aw) = topTwo aw := by
  obtain ⟨k, rfl⟩ : ∃ k, aw = k + 1 := ⟨aw - 1, by omega⟩
  refine BitVec.eq_of_getLsbD_eq fun i hi => ?_
  simp only [gray, topTwo, BitVec.getLsbD_xor, BitVec.getLsbD_ushiftRight, BitVec.getLsbD_shiftLeft,
    BitVec.getLsbD_twoPow, BitVec.getLsbD_ofNat, Nat.add_sub_cancel]
  rcases Nat.lt_trichotomy i k with below | rfl | above
  · have clear : k + 1 ≠ i ∧ k + 1 ≠ 1 + i := by omega
    simp [below, clear]
  · simp [Nat.add_comm 1 i]
  · obtain rfl : i = k + 1 := by omega
    have second : Nat.testBit 3 1 = true := rfl
    simp [second]

/-- Settles O58: the Gray code is linear and injective, and the full test compares with the code of a lap more. -/
theorem grayPointers : Obligations.GrayPointers := by
  refine ⟨fun _ => ungray_gray, fun aw q r haw hr => ?_⟩
  have lap : BitVec.ofNat (aw + 1) (2 ^ aw) = BitVec.twoPow (aw + 1) aw :=
    BitVec.eq_of_toNat_eq (by rw [BitVec.toNat_ofNat, BitVec.toNat_twoPow])
  calc asyncFull q = true
    _ ↔ gray q.wbin = gray r ^^^ topTwo aw := by rw [asyncFull, hr, beq_iff_eq]
    _ ↔ q.wbin = r + BitVec.ofNat (aw + 1) (2 ^ aw) := by
      rw [lap, add_lap_eq_xor, ← gray_lap haw, ← gray_xor, gray_inj]

end Sys2Proof.Machine

namespace Sys2Proof.Machine

/-! ## Who writes CUR and who changes OPEN (R24, R291, R335) -/

/-- OPEN, and what DISPLAY shows of the board: CUR and CURV. -/
def openAndShown (s : State) : Bool × Byte × Bool := (s.isOpen, s.cur, s.curv)

/-- An exchange writes neither. -/
theorem openAndShown_of_outsideExchange {s t : State} (h : outsideExchange t = outsideExchange s) :
    openAndShown t = openAndShown s :=
  (congrArg openAndShown h :)

/-- The answer of an operation has OPEN, CUR and CURV of `s`. -/
abbrev KeepsOpenAndShown (s : State) (o : Host.Outcome State Fault Refusal) : Prop :=
  answers (fun t => openAndShown t = openAndShown s) o

theorem KeepsOpenAndShown.cur {s t : State} {o : Host.Outcome State Fault Refusal} (h : KeepsOpenAndShown s o)
    (ht : o = .next t) : t.cur = s.cur ∧ t.curv = s.curv :=
  Prod.ext_iff.mp (congrArg Prod.snd (h t ht))

theorem KeepsOpenAndShown.isOpen {s t : State} {o : Host.Outcome State Fault Refusal} (h : KeepsOpenAndShown s o)
    (ht : o = .next t) : t.isOpen = s.isOpen :=
  congrArg Prod.fst (h t ht)

/-! ### A field of the state in the phases of a worker's iteration -/

section
variable {α : Type} {field : State → α} {s t : State}

theorem swPhase_keeps {at_ : SState} {f : State → State} (hf : s.ss = at_ → field (f s) = field s) :
    field (swPhase at_ f s) = field s := by
  unfold swPhase
  split
  · exact hf ‹_›
  · rfl

theorem dpPhase_keeps {at_ : DState} {f : State → State} (hf : s.ds = at_ → field (f s) = field s) :
    field (dpPhase at_ f s) = field s := by
  unfold dpPhase
  split
  · exact hf ‹_›
  · rfl

/-- A step that is taken where it is enabled, and another move elsewhere. -/
theorem getD_keeps {o : Option State} (ho : ∀ u, o = some u → field u = field s) (ht : field t = field s) :
    field (o.getD t) = field s := by
  cases o with
  | none => exact ht
  | some u => exact ho u rfl

end

/-! ### The parts of a step -/

section
variable {s t : State}

theorem openAndShown_startExchange (op : ClientOp) (s : State) :
    openAndShown (startExchange op s) = openAndShown s :=
  openAndShown_of_outsideExchange (outsideExchange_startExchange op s)

theorem openAndShown_sendFrame (op : ClientOp) (c a d : Byte) (s : State) :
    openAndShown (sendFrame op c a d s) = openAndShown s :=
  openAndShown_startExchange op (loadTxf c a d { s with ps := .busy })

theorem openAndShown_startRequest (r : ClientRequest) (s : State) :
    openAndShown (startRequest r s) = openAndShown s := by
  rcases startRequest_cases r s with ⟨e, he⟩ | he | ⟨op, c, a, d, -, -, he⟩ <;> rw [he]
  · rfl
  · unfold startRaw
    split
    · exact openAndShown_startExchange .raw (takeRequest s)
    · exact openAndShown_startExchange .raw s
  · exact openAndShown_sendFrame op c a d s

theorem openAndShown_ownerStep (h : ownerStep s = some t) : openAndShown t = openAndShown s :=
  openAndShown_of_outsideExchange (outsideExchange_ownerStep h)

theorem openAndShown_rxArrive (b : Byte) (s : State) : openAndShown (rxArrive b s) = openAndShown s := by
  rcases rxArrive_cases b s with ⟨-, -, he⟩ | ⟨-, he⟩ <;> rw [he]
  rfl

theorem openAndShown_readTimeout (s : State) : openAndShown (readTimeout s) = openAndShown s := by
  unfold readTimeout
  split
  · exact openAndShown_of_outsideExchange (outsideExchange_endChunk s)
  · rfl

theorem openAndShown_swStep (h : swStep s = some t) : openAndShown t = openAndShown s := by
  rcases swStep_cases h with ⟨-, rfl⟩ | ⟨r, -, -, rfl⟩ | ⟨-, -, rfl⟩ | ⟨-, ho⟩ | ⟨-, -, rfl⟩ | ⟨-, rfl⟩
  · unfold swTop
    split <;> rfl
  · rfl
  · exact openAndShown_sendFrame _ _ _ _ s
  · exact openAndShown_ownerStep ho
  · rfl
  · rfl

theorem openAndShown_swPoll (s : State) : openAndShown (swPoll s) = openAndShown s := by
  unfold swPoll
  split <;> rfl

theorem openAndShown_dpPoll (s : State) : openAndShown (dpPoll s) = openAndShown s := by
  unfold dpPoll
  split <;> rfl

/-- The delivery writes CUR and CURV, but no step of DISPLAY touches OPEN (R249, R251). -/
theorem dpStep_isOpen (h : dpStep s = some t) : t.isOpen = s.isOpen := by
  rcases dpStep_cases h with ⟨-, rfl⟩ | ⟨v, -, -, rfl⟩
  · unfold dpTop
    split <;> rfl
  · rfl

theorem openAndShown_fePush {r : FeRequest} (h : fePush r s = some t) : openAndShown t = openAndShown s := by
  obtain ⟨-, rfl⟩ := fePush_some h
  rw [pushAll_eq]
  rfl

theorem openAndShown_fePresent (r : FeRequest) (s : State) : openAndShown (fePresent r s) = openAndShown s := by
  rcases fePresent_cases r s with hp | he
  · exact openAndShown_fePush hp
  · rw [he]
    rfl

theorem openAndShown_feRetry (s : State) : openAndShown (feRetry s) = openAndShown s := by
  rcases feRetry_cases s with he | ⟨r, rest, t, -, hp, he⟩ <;> rw [he]
  exact openAndShown_fePush (t := t) hp

/-! ### Whole operations -/

theorem openAndShown_drive (acts : List LineAct) (s : State) : openAndShown (drive acts s) = openAndShown s :=
  drive_keeps (P := fun u => openAndShown u = openAndShown s) (fun _ _ hu ho => (openAndShown_ownerStep ho).trans hu)
    (fun a u hu => by
      cases a with
      | arrive b => exact (openAndShown_rxArrive b u).trans hu
      | silence => exact (openAndShown_readTimeout u).trans hu)
    (fun _ _ hu => hu) acts s rfl

theorem openAndShown_advance (s : State) : openAndShown (advance s) = openAndShown s :=
  runOwner_keeps (P := fun u => openAndShown u = openAndShown s) (fun _ _ hu ho => (openAndShown_ownerStep ho).trans hu)
    _ s rfl

theorem openAndShown_swIteration (s : State) : openAndShown (swIteration s) = openAndShown s := by
  refine (swPhase_keeps ?settle).trans <| (swPhase_keeps ?push).trans <| (swPhase_keeps ?exch).trans <|
    (swPhase_keeps ?wait).trans <| swPhase_keeps ?top
  case top => exact fun hs => openAndShown_swStep (by simp [swStep, hs])
  case wait =>
    exact fun hs => getD_keeps (fun u hu => openAndShown_swStep (by simp [swStep, hs, hu])) (openAndShown_swPoll _)
  case exch =>
    intro hs
    refine (openAndShown_drive _ _).trans ?_
    split
    · exact openAndShown_sendFrame _ _ _ _ _
    · rfl
  case push => exact fun hs => getD_keeps (fun u hu => openAndShown_swStep (by simp [swStep, hs, hu])) rfl
  case settle => exact fun hs => openAndShown_swStep (by simp [swStep, hs])

theorem dpIteration_isOpen (s : State) : (dpIteration s).isOpen = s.isOpen := by
  refine (dpPhase_keeps (field := State.isOpen) ?wait).trans (dpPhase_keeps (field := State.isOpen) ?top)
  case top => exact fun hs => dpStep_isOpen (by simp [dpStep, hs])
  case wait =>
    exact fun hs => getD_keeps (field := State.isOpen) (fun u hu => dpStep_isOpen (by simp [dpStep, hs, hu]))
      (congrArg Prod.fst (openAndShown_dpPoll _))

theorem keepsOpenAndShown_issueRequest (r : ClientRequest) (s : State) : KeepsOpenAndShown s (issueRequest r s) := by
  intro t ht
  obtain ⟨-, -, -, rfl⟩ := issueRequest_next ht
  exact openAndShown_startRequest r s

theorem keepsOpenAndShown_runRequest (r : ClientRequest) (s : State) : KeepsOpenAndShown s (runRequest r s) := by
  intro t ht
  obtain ⟨u, hu, rfl⟩ := runRequest_next ht
  exact (openAndShown_drive _ u).trans (keepsOpenAndShown_issueRequest r s u hu)

theorem keepsOpenAndShown_requestFrame (c a d : Byte) (s : State) : KeepsOpenAndShown s (requestFrame c a d s) :=
  answers_unless (answers_unless (keepsOpenAndShown_runRequest .communicate (loadTxf c a d s)))

theorem keepsOpenAndShown_deliverFrame (b0 b1 b2 b3 : Byte) (s : State) :
    KeepsOpenAndShown s (deliverFrame b0 b1 b2 b3 s) := by
  have arrived : openAndShown (rxArrive b3 (rxArrive b2 (rxArrive b1 (rxArrive b0 s)))) = openAndShown s := by
    simp only [openAndShown_rxArrive]
  refine answers_next ?_
  split
  · exact (openAndShown_advance _).trans arrived
  · exact arrived

/-- Of the instructions only CONNECT, SHUTDOWN and DP_ITER can touch OPEN, CUR or CURV. -/
theorem keepsOpenAndShown_exec {i : Instr} (hc : i ≠ .connect) (hs : i ≠ .shutdown) (hd : i ≠ .dpIter) (s : State) :
    KeepsOpenAndShown s (exec i s) := by
  cases i with
  | connect => exact absurd rfl hc
  | shutdown => exact absurd rfl hs
  | dpIter => exact absurd rfl hd
  | noop | setup | getport | setport | getoption | setoption | setsingle | delsingle | toggle =>
    exact keepsOpenAndShown_requestFrame _ _ _ s
  | rNoop | rSetup | rGetport | rSetport | rGetoption | rSetoption | rSetsingle | rDelsingle | rToggle
  | rsvdLow0909 | rsvdLow0A0B | rsvdLow0C0F | rsvdMid101F | rsvdMid203F | rsvdMid407F | rsvdMid80BF | rsvdMidC0DF
  | rsvdMidE0EF | rsvdHighF0F3 | rsvdHighF4F5 | rsvdHighF6F6 => exact keepsOpenAndShown_deliverFrame _ _ _ _ s
  | csum | decode | isresp | respcode | reqcode | pack => exact answers_next rfl
  | communicate | setall | query | enable | disable | pulse => exact keepsOpenAndShown_runRequest _ s
  | swIter => exact answers_next (openAndShown_swIteration s)
  | encode c a d =>
    refine answers_unless (answers_unless ?_)
    split <;> exact answers_next rfl
  | label f =>
    show KeepsOpenAndShown s (execLabel f s)
    unfold execLabel
    split <;> exact answers_next rfl
  | unpack | mask1 => exact answers_ite (answers_next rfl) (answers_next rfl)
  | submit => exact answers_unless (answers_next (openAndShown_fePresent _ s))
  | batch action targets duration =>
    refine answers_unless (answers_unless ?_)
    split
    · exact answers_next rfl
    · exact answers_next (openAndShown_fePresent _ s)
  | startSw => exact answers_unless (answers_unless (answers_next rfl))
  | startDp => exact answers_unless (answers_next rfl)

theorem connect_keeps_cur (s : State) : answers (fun t => t.cur = s.cur ∧ t.curv = s.curv) (exec .connect s) :=
  answers_unless (answers_unless (answers_unless (answers_ite (answers_next ⟨rfl, rfl⟩) (answers_next ⟨rfl, rfl⟩))))

theorem shutdown_keeps_cur (s : State) : answers (fun t => t.cur = s.cur ∧ t.curv = s.curv) (exec .shutdown s) := by
  refine answers_unless (answers_unless (answers_next ?_))
  split <;> exact ⟨rfl, rfl⟩

/-- Of the atomic steps only DISPLAY's and the reset input's can touch OPEN, CUR or CURV. -/
theorem keepsOpenAndShown_agentStep {a : AgentStep} (hd : a ≠ .display) (hr : a ≠ .reset) (s : State) :
    KeepsOpenAndShown s (agentStep a s) := by
  cases a with
  | display => exact absurd rfl hd
  | reset => exact absurd rfl hr
  | issue r => exact keepsOpenAndShown_issueRequest r s
  | own =>
    refine answers_next ?_
    unfold ownStep
    split
    · rfl
    · exact getD_keeps (fun _ => openAndShown_ownerStep) rfl
  | switcher => exact answers_next (getD_keeps (fun _ => openAndShown_swStep) rfl)
  | frontEnd => exact answers_next (openAndShown_feRetry s)
  | arrive b => exact answers_next (openAndShown_rxArrive b s)
  | readTimeout => exact answers_next (openAndShown_readTimeout s)
  | pollSw => exact answers_next (openAndShown_swPoll s)
  | pollDp => exact answers_next (openAndShown_dpPoll s)
  | syncReqW | syncReqR | syncResW | syncResR | driveIntr | driveLineOk => exact answers_next rfl
  | sampleIntr w => cases w <;> exact answers_next rfl
  | writeCsumVerify v =>
    intro t ht
    obtain ⟨-, -, rfl⟩ := writeControl_next ((agentStep_writeCsumVerify v s).symm.trans ht)
    rfl
  | writeMaxDiscard m =>
    intro t ht
    obtain ⟨-, -, rfl⟩ := writeControl_next ((agentStep_writeMaxDiscard m s).symm.trans ht)
    rfl
  | readReg r =>
    intro t ht
    obtain ⟨-, -, rfl⟩ := readControl_next (r := r) ht
    rcases afterRead_cases r s with ⟨-, he⟩ | ⟨-, he⟩ <;> rw [he] <;> rfl

end

/-- Settles O55: what is left of each clause are CONNECT and SHUTDOWN, which keep CUR, and DISPLAY, which keeps OPEN. -/
theorem whoWritesCurAndOpen : Obligations.WhoWritesCurAndOpen := by
  refine ⟨fun i s t hd ht => ?_, fun a s t hd hr ht => (keepsOpenAndShown_agentStep hd hr s).cur ht,
    fun i s t hc hs ht => ?_, fun a s t hr ht => ?_⟩
  · by_cases hc : i = .connect
    · subst hc
      exact connect_keeps_cur s t ht
    · by_cases hs : i = .shutdown
      · subst hs
        exact shutdown_keeps_cur s t ht
      · exact (keepsOpenAndShown_exec hc hs hd s).cur ht
  · by_cases hd : i = .dpIter
    · subst hd
      cases ht
      exact dpIteration_isOpen s
    · exact (keepsOpenAndShown_exec hc hs hd s).isOpen ht
  · by_cases hd : a = .display
    · subst hd
      cases ht
      exact getD_keeps (field := State.isOpen) (fun _ => dpStep_isOpen) rfl
    · exact (keepsOpenAndShown_agentStep hd hr s).isOpen ht

end Sys2Proof.Machine

namespace Sys2Proof.Machine

/-! ## Range errors of the client operations (R274, R278) -/

theorem withCard_of_range {card : Int} (h : card < 0 ∨ 255 < card) (k : Byte → State → State) (s : State) :
    withCard card k s = raise .control (errRangeByte 1) s :=
  if_neg (by simp [byteInRange_eq_false_iff.mpr h])

theorem withIndex_of_range {index : Int} (h : index < 0 ∨ 7 < index) (k : Byte → State → State) (s : State) :
    withIndex index k s = raise .control (errRangeIndex index) s :=
  if_neg (by simp [indexInRange_eq_false_iff.mpr h])

/-- A direct operation whose first step raises an error completes with it: no exchange was started, and there is nothing
to drive. -/
theorem runRequest_of_error {r : ClientRequest} {s : State} {e : Error} (hr : hostReady s) (hc : s.cop = .none)
    (code : requestCodeOk r s = true) (he : startRequest r s = raise .control e s) :
    runRequest r s = .next { s with hostPort := .err e } := by
  have ended : driveOp (raise .control e s) = raise .control e s := driveOp_ended (hostReady_idle hr).2.1 hc
  rw [runRequest, issueRequest_ready hr.1 hr.2 code, he]
  exact congrArg Host.Outcome.next ended

/-- Settles O28: the card is looked at first, then the index, and the transport after both. -/
theorem rangeErrorsFirst : Obligations.RangeErrorsFirst := by
  intro card index v s hr hc
  refine ⟨fun hcard i hi => ?_, fun clow chigh hindex i hi => ?_⟩
  · simp only [List.mem_cons, List.not_mem_nil, or_false] at hi
    rcases hi with rfl | rfl | rfl | rfl | rfl <;>
      exact runRequest_of_error hr hc rfl (by simp only [startRequest, withCard_of_range hcard]; rfl)
  · simp only [List.mem_cons, List.not_mem_nil, or_false] at hi
    rcases hi with rfl | rfl <;>
      exact runRequest_of_error hr hc rfl (by
        simp only [startRequest, withCard_of_byte ⟨clow, chigh⟩, withIndex_of_range hindex]; rfl)

end Sys2Proof.Machine

namespace Sys2Proof.Machine

/-! ## Requests that are refused (R290, R200, R187, R100) -/

/-- The answer tests first whether HOST holds the transport, and then whether that is idle (R290). -/
def AsksTransport (s : State) (o : Host.Outcome State Fault Refusal) : Prop :=
  ∃ granted, o = if !hostHolds s then .refused .notHolder else if !transportIdle s then .refused .busy else granted

section
variable {s : State} {o : Host.Outcome State Fault Refusal}

theorem AsksTransport.notHolder (h : AsksTransport s o) (hs : s.ss ≠ .stopped) (he : s.ss ≠ .exited) :
    o = .refused .notHolder := by
  obtain ⟨granted, rfl⟩ := h
  have held : ¬ hostHolds s = true := by simp [hs, he]
  simp [held]

theorem AsksTransport.busy (h : AsksTransport s o) (hs : s.ss = .stopped ∨ s.ss = .exited)
    (hb : s.xs ≠ .idle ∨ s.ps ≠ .idle) : o = .refused .busy := by
  obtain ⟨granted, rfl⟩ := h
  have holds : hostHolds s = true := hostHolds_iff.mpr hs
  have busy : ¬ transportIdle s = true := fun hi => by
    obtain ⟨hx, hp⟩ := transportIdle_iff.mp hi
    exact hb.elim (· hx) (· hp)
  simp [holds, busy]

end

theorem asksTransport_runRequest (r : ClientRequest) (s : State) : AsksTransport s (runRequest r s) :=
  ⟨andThen (if !requestCodeOk r s then .refused .requestCode else .next (startRequest r s)) driveOp, by
    unfold runRequest issueRequest
    split
    · rfl
    · split <;> rfl⟩

theorem asksTransport_requestFrame (c a d : Byte) (s : State) : AsksTransport s (requestFrame c a d s) := ⟨_, rfl⟩

/-- What HOST may ask of the transport: the operations of the control port, ENCODE and the nine request frames. -/
def transportInstrs (card index ci ai di : Int) (v : RelayVec) (a d x : Byte) : List Instr :=
  [.connect, .communicate, .shutdown, .setall card v, .query card, .enable card index, .disable card index,
    .pulse card, .encode ci ai di, .noop a d x, .setup a d x, .getport a d x, .setport a d x, .getoption a d x,
    .setoption a d x, .setsingle a d x, .delsingle a d x, .toggle a d x]

/-- Each of them asks first, whatever its operands are (R290, R200, R187; logs 13, 36). -/
theorem asksTransport_exec {card index ci ai di : Int} {v : RelayVec} {a d x : Byte} {i : Instr}
    (h : i ∈ transportInstrs card index ci ai di v a d x) (s : State) : AsksTransport s (exec i s) := by
  cases i with
  | connect | shutdown | encode => exact ⟨_, rfl⟩
  | communicate | setall | query | enable | disable | pulse => exact asksTransport_runRequest _ s
  | noop | setup | getport | setport | getoption | setoption | setsingle | delsingle | toggle =>
    exact asksTransport_requestFrame _ _ _ s
  | _ => simp [transportInstrs] at h

theorem exec_communicate_of_badCode {s : State} (hr : hostReady s) (h : requestCodeOk .communicate s = false) :
    exec .communicate s = .refused .requestCode := by
  show runRequest .communicate s = _
  simp [runRequest, issueRequest, hr.1, hr.2, h, andThen]

/-- The command byte that raw COMMUNICATE tests: that of a written TXF, or that of the free value which an open
transport would send (R100, log 7). -/
theorem requestCodeOk_of_high {s : State} {q : Quad}
    (h : s.txfWritten = true ∧ q = s.txf ∨ s.txfWritten = false ∧ s.isOpen = true ∧ q = anyQuad s.drawn)
    (hb : 8 < q.b0.toNat) : requestCodeOk .communicate s = false := by
  rcases h with ⟨hw, rfl⟩ | ⟨hw, ho, rfl⟩
  · simp [requestCodeOk, rawRequest, quadView, hw, hb]
  · simp [requestCodeOk, rawRequest, quadView, hw, ho, hb]

/-- Settles O30: every operation of the list asks for the transport first; with HOST ready, raw COMMUNICATE tests its
command byte next. -/
theorem directRefusals : Obligations.DirectRefusals := by
  intro card index ci ai di v a d x s i hi
  have asks : AsksTransport s (exec i s) := asksTransport_exec hi s
  exact ⟨asks.notHolder, asks.busy,
    fun hr q hq hb => exec_communicate_of_badCode hr (requestCodeOk_of_high hq hb)⟩

end Sys2Proof.Machine

namespace Sys2Proof.Machine

/-! ## RESYNC with a finite MAX_DISCARD (R329, R180) -/

/-- A chunk that RESYNC does not discard is its last one: it is empty, a candidate, or the garbage past MAX_DISCARD.
Otherwise the chunk is garbage, and the rest is read with DISC counted up (R183). -/
theorem resync_cons_cases (verify : Bool) (limit : Option Nat) (disc : Nat) (c : List Byte) (rest : List (List Byte)) :
    (∀ d, resync verify limit disc (c :: rest) ≠ .reading d)
    ∨ (limit ≠ some disc ∧ resync verify limit disc (c :: rest) = resync verify limit (disc + 1) rest) := by
  match c with
  | [] => exact .inl nofun
  | c0 :: tail =>
    by_cases hc : 0xF0 ≤ c0.toNat
    · left
      intro d
      rw [resync.eq_def]
      dsimp only
      rw [if_pos (isCandidate_iff.mpr hc)]
      split
      · split <;> nofun
      · nofun
    · by_cases hm : limit = some disc
      · subst hm
        left
        intro d
        rw [resync_of_desync (not_le.mp hc)]
        nofun
      · exact .inr ⟨hm, resync_of_garbage (not_le.mp hc) hm⟩

/-- More chunks than MAX_DISCARD still allows to discard bring a verdict, from any DISC within it. -/
theorem resync_ne_reading {verify : Bool} {m : Nat} : ∀ (cs : List (List Byte)) {disc : Nat}, disc ≤ m →
    m < disc + cs.length → ∀ d, resync verify (some m) disc cs ≠ .reading d := by
  intro cs
  induction cs with
  | nil =>
    intro disc hd hl
    rw [List.length_nil] at hl
    omega
  | cons c rest ih =>
    intro disc hd hl
    rw [List.length_cons] at hl
    rcases resync_cons_cases verify (some m) disc c rest with verdict | ⟨within, he⟩
    · exact verdict
    · have below : disc ≠ m := fun h => within (congrArg some h.symm)
      rw [he]
      exact ih (by omega) (by omega)

/-- Settles O19: from DISC = 0, `m + 1` chunks are more than MAX_DISCARD lets RESYNC discard. -/
theorem boundedResyncEnds : Obligations.BoundedResyncEnds :=
  fun _ _ cs hl => resync_ne_reading cs (Nat.zero_le _) (by omega)

end Sys2Proof.Machine

namespace Sys2Proof.Machine

/-! ## After reset nothing moves by itself (R310, R315) -/

/-- The transport is closed and idle, no operation is in progress, the workers are stopped, both queues are empty and
nothing is held: what every step of the machine's own looks at. -/
structure Quiescent (s : State) : Prop where
  xs_idle : s.xs = .idle
  cop_none : s.cop = .none
  closed : s.isOpen = false
  ss_stopped : s.ss = .stopped
  ds_stopped : s.ds = .stopped
  reqq_empty : s.reqq = Fifo.empty
  resq_empty : s.resq = Fifo.empty
  nothing_held : s.feWait = []

theorem quiescent_resetWith (p : Params) : Quiescent (State.resetWith p) :=
  ⟨rfl, rfl, rfl, rfl, rfl, rfl, rfl, rfl⟩

theorem fifoSyncW_of_empty {α : Type} {q : Fifo α} (hq : q = Fifo.empty) (n : Nat) : fifoSyncW n q = q := by
  subst hq
  exact fifoSyncW_of_not_allowed (n.eq_zero_or_pos.imp_left Nat.le_of_eq)

theorem fifoSyncR_of_empty {α : Type} {q : Fifo α} (hq : q = Fifo.empty) (depth : Option Nat) (n : Nat) :
    fifoSyncR depth n q = q := by
  subst hq
  exact fifoSyncR_of_not_allowed (.inr n.zero_le)

section
variable {s : State}

theorem Quiescent.ownStep (h : Quiescent s) : ownStep s = s := by
  simp [Machine.ownStep, ownerStep_idle h.xs_idle h.cop_none]

theorem Quiescent.feRetry (h : Quiescent s) : feRetry s = s := by
  simp [Machine.feRetry, h.nothing_held]

theorem Quiescent.readTimeout (h : Quiescent s) : readTimeout s = s :=
  if_neg fun waits => by simp [h.xs_idle] at waits

theorem Quiescent.swPoll (h : Quiescent s) : swPoll s = s :=
  if_neg (by simp [h.ss_stopped])

theorem Quiescent.dpPoll (h : Quiescent s) : dpPoll s = s :=
  if_neg (by simp [h.ds_stopped])

end

/-- No sequencer, timer or synchroniser moves a quiescent machine, and a byte that arrives there is dropped. -/
theorem Quiescent.agentStep {s : State} (h : Quiescent s) {a : AgentStep} {b : Byte} {n : Nat}
    (ha : a ∈ [AgentStep.own, .switcher, .display, .frontEnd, .arrive b, .readTimeout, .pollSw, .pollDp,
      .syncReqW n, .syncReqR n, .syncResW n, .syncResR n]) :
    agentStep a s = .next s := by
  have reqq_kept {q : Fifo PendingRequest} (hq : q = s.reqq) : Host.Outcome.next { s with reqq := q } =
      (.next s : Host.Outcome State Fault Refusal) := by rw [hq]
  have resq_kept {q : Fifo Byte} (hq : q = s.resq) : Host.Outcome.next { s with resq := q } =
      (.next s : Host.Outcome State Fault Refusal) := by rw [hq]
  simp only [List.mem_cons, List.not_mem_nil, or_false] at ha
  rcases ha with rfl | rfl | rfl | rfl | rfl | rfl | rfl | rfl | rfl | rfl | rfl | rfl
  · exact congrArg _ h.ownStep
  · exact agentStep_switcher_of_none (swStep_of_not_running (.inl h.ss_stopped))
  · exact agentStep_display_of_none (dpStep_of_not_running (.inl h.ds_stopped))
  · exact congrArg _ h.feRetry
  · exact congrArg _ (rxArrive_of_closed b h.closed)
  · exact congrArg _ h.readTimeout
  · exact congrArg _ h.swPoll
  · exact congrArg _ h.dpPoll
  · exact reqq_kept (fifoSyncW_of_empty h.reqq_empty n)
  · exact reqq_kept (fifoSyncR_of_empty h.reqq_empty _ n)
  · exact resq_kept (fifoSyncW_of_empty h.resq_empty n)
  · exact resq_kept (fifoSyncR_of_empty h.resq_empty _ n)

/-- Settles O47: the reset step and the unwritten registers are fields of `resetWith`, and that state is quiescent. -/
theorem resetIsQuiet : Obligations.ResetIsQuiet :=
  ⟨fun _ => rfl, fun p _ _ _ ha => (quiescent_resetWith p).agentStep ha, fun _ => ⟨rfl, rfl⟩⟩

end Sys2Proof.Machine
